-- ==== Sys2Proof/Word.lean ====
section
/-! DEFINITION. The word types of the block (spec/00_scope.md R11, R12): `Byte` is 0..255, `Bit` is 0..1, `UInt2` is
0..3, bit 0 the least significant. `Int`, the unbounded integer of R12, is Lean's. -/

namespace Sys2Proof

/-- An 8-bit unsigned value, bits 7..0 (R11). -/
abbrev Byte := BitVec 8

/-- One bit, 0 or 1 (R12). -/
abbrev Bit := BitVec 1

/-- A two-bit value, 0..3 (R12). -/
abbrev UInt2 := BitVec 2

end Sys2Proof
end

