-- ==== Sys2Proof/Config.lean ====
section
/-! DEFINITION. The parameters of the block (spec/00_scope.md R10): the three types the spec leaves open, the defaults the
host applies before OPEN (spec/45_orchestrator.md R281), and the one open parameter a step reads. -/

namespace Sys2Proof

/-- `BusHandle`: opaque, supplied by the transport (R10, D38). Carried as a token the block only stores and hands on.
DESIGN CHOICE, safe: notes/assumptions/6.md. -/
structure BusHandle where
  token : Nat
  deriving DecidableEq, Repr

/-- `BUS_ADDR`: opaque, passed to the transport verbatim (R10, D21). DESIGN CHOICE, safe: notes/assumptions/6.md. -/
structure BusAddr where
  value : Nat
  deriving DecidableEq, Repr

/-- `TransportErr`: the transport's error payload, opaque and passed verbatim (R10, R88, D37).
DESIGN CHOICE, safe: notes/assumptions/6.md. -/
structure TransportErr where
  token : Nat
  deriving DecidableEq, Repr

/-- `DEFAULT_BUS_ADDRESS` (R10). -/
def Config.defaultBusAddress : BusAddr := ⟨0x68⟩

/-- `DEFAULT_BUS_NAME` (R10). -/
def Config.defaultBusName : String := "i2c-1"

/-- `DEFAULT_CENTURY_0` (R10). -/
def Config.defaultCentury0 : Int := 2000

/-- `CENTURY_SPAN`: century_1 − century_0, fixed (R10). -/
def Config.centurySpan : Int := 100

/-- `LOG_GET_TIME_FAILURE`: whether a failed GET_TIME emits a log event. The spec leaves it OPEN (R10, R312, D25), so it
has no body here: nothing can be proved of its value. notes/assumptions/3.md. -/
opaque Config.logGetTimeFailure : Bool

end Sys2Proof
end

