-- ==== Sys2Proof/Syntax.lean ====
section
/-! DEFINITION. Requests as syntax: the value types that cross the ports (spec/10_state.md Part B), `Instr` with one
constructor for each row of the opcode table (spec/30_encoding.md R113), and the request as it stands on the request
port, one opcode byte and one typed operand (R110, R112). -/

namespace Sys2Proof

/-- CalendarTime (R37). Every field is a full integer; TIME_ENC checks the ranges. -/
structure CalendarTime where
  year : Int
  month : Int
  day : Int
  dow : Option Int
  hour : Int
  minute : Int
  second : Int
  deriving DecidableEq, Repr

/-- StatusFlags (R39, R54). -/
structure StatusFlags where
  osf : Bit
  a1f : Bit
  a2f : Bit
  bsy : Bit
  en32khz : Bit
  deriving DecidableEq, Repr

/-- ControlFlags (R40, R52). -/
structure ControlFlags where
  a1ie : Bit
  a2ie : Bit
  intcn : Bit
  rs : UInt2
  conv : Bit
  bbsqw : Bit
  eosc : Bit
  deriving DecidableEq, Repr

/-- The day selector `sel` of the last match mode of each alarm (R42). -/
inductive DaySel where
  | dayOfMonth
  | dayOfWeek
  deriving DecidableEq, Repr

/-- A1Mode (R42). -/
inductive A1Mode where
  | everySecond
  | matchS
  | matchMS
  | matchHMS
  | matchDHMS (sel : DaySel)
  deriving DecidableEq, Repr

/-- A2Mode (R42). -/
inductive A2Mode where
  | everyMinute
  | matchM
  | matchHM
  | matchDHM (sel : DaySel)
  deriving DecidableEq, Repr

/-- AlarmSpec, tagged by the alarm number (R41). -/
inductive AlarmSpec where
  | alarm1 (second minute hour dayOrDate : Int) (mode : A1Mode)
  | alarm2 (minute hour dayOrDate : Int) (mode : A2Mode)
  deriving DecidableEq, Repr

/-- Config, the operand of OPEN, fully resolved by the host (R44). -/
structure OpenConfig where
  busName : String
  busAddress : BusAddr
  century0 : Int
  deriving DecidableEq, Repr

/-- One constructor for each row of the opcode table, with its operand (R110, R113). -/
inductive Instr where
  | bcdEnc (v : Int)
  | bcdDec (b : Byte)
  | timeEnc (t : CalendarTime) (c0 : Int)
  | timeDec (s : List Byte) (c0 : Int)
  | statusEnc (f : StatusFlags)
  | statusDec (s : List Byte)
  | controlEnc (f : ControlFlags)
  | controlDec (s : List Byte)
  | alarmEnc (a : AlarmSpec)
  | alarmDec (s : List Byte)
  | tempDec (s : List Byte)
  | openBus (cfg : OpenConfig)
  | getTime
  | setTime (t : CalendarTime)
  | terminate
  | getStatus
  | setStatus (f : StatusFlags)
  | getControl
  | setControl (f : ControlFlags)
  | getAlarm1
  | getAlarm2
  | setAlarm (a : AlarmSpec)
  | getTemperature
  deriving DecidableEq, Repr

/-- The 23 operations by name, without operands: what a log event's `op` holds (R312). -/
inductive Opcode where
  | bcdEnc
  | bcdDec
  | timeEnc
  | timeDec
  | statusEnc
  | statusDec
  | controlEnc
  | controlDec
  | alarmEnc
  | alarmDec
  | tempDec
  | openBus
  | getTime
  | setTime
  | terminate
  | getStatus
  | setStatus
  | getControl
  | setControl
  | getAlarm1
  | getAlarm2
  | setAlarm
  | getTemperature
  deriving DecidableEq, Repr

/-- The operand formats of R112, by the spec's names. -/
inductive Format where
  | f0
  | fi
  | fb
  | fs
  | fte
  | ftd
  | ft
  | fsf
  | fcf
  | fa
  | fcfg
  deriving DecidableEq, Repr

/-- A typed operand, carried whole, one constructor for each format of R112. -/
inductive Operand where
  | f0
  | fi (v : Int)
  | fb (b : Byte)
  | fs (s : List Byte)
  | fte (t : CalendarTime) (c0 : Int)
  | ftd (s : List Byte) (c0 : Int)
  | ft (t : CalendarTime)
  | fsf (f : StatusFlags)
  | fcf (f : ControlFlags)
  | fa (a : AlarmSpec)
  | fcfg (cfg : OpenConfig)
  deriving DecidableEq, Repr

/-- A request as the host puts it on the request port: one opcode byte, the only part given as bits, and one operand
(R110). The front end is untyped, so a request may carry an operand its opcode does not take (R118). -/
structure Request where
  op : Byte
  operand : Operand
  deriving DecidableEq, Repr

end Sys2Proof
end

