-- ==== Sys2Proof/WellFormed.lean ====
section
/-! DEFINITION. Which requests are well formed: the operand has the type the opcode fixes (spec/30_encoding.md R112, R118).
The operand types hold no value out of their type's range (R120), and an operand of the right type is a legal request
whatever its value (R118), so an `Instr` has no ill-formed term and the checks stand on the request. -/

namespace Sys2Proof

/-- The format an operation takes (R112, R113). -/
def Opcode.format : Opcode → Format
  | .bcdEnc => .fi
  | .bcdDec => .fb
  | .timeEnc => .fte
  | .timeDec => .ftd
  | .statusEnc => .fsf
  | .statusDec => .fs
  | .controlEnc => .fcf
  | .controlDec => .fs
  | .alarmEnc => .fa
  | .alarmDec => .fs
  | .tempDec => .fs
  | .openBus => .fcfg
  | .getTime => .f0
  | .setTime => .ft
  | .terminate => .f0
  | .getStatus => .f0
  | .setStatus => .fsf
  | .getControl => .f0
  | .setControl => .fcf
  | .getAlarm1 => .f0
  | .getAlarm2 => .f0
  | .setAlarm => .fa
  | .getTemperature => .f0

/-- The format an operand has. -/
def Operand.format : Operand → Format
  | .f0 => .f0
  | .fi _ => .fi
  | .fb _ => .fb
  | .fs _ => .fs
  | .fte _ _ => .fte
  | .ftd _ _ => .ftd
  | .ft _ => .ft
  | .fsf _ => .fsf
  | .fcf _ => .fcf
  | .fa _ => .fa
  | .fcfg _ => .fcfg

/-- Check 1, the opcode byte is one of the 23 of R113: with `S` = 0 the functions of units 0 to 4, with `S` = 1 the
functions 0 to 11 of unit 0 (R111, R113). -/
def Request.opcodeAssigned (r : Request) : Bool :=
  match r.op.extractLsb' 7 1, r.op.extractLsb' 4 3, (r.op.extractLsb' 0 4).toNat with
  | 0#1, 0#3, fn => fn == 1 || fn == 2
  | 0#1, 1#3, fn => fn ≤ 1
  | 0#1, 2#3, fn => fn ≤ 3
  | 0#1, 3#3, fn => fn ≤ 1
  | 0#1, 4#3, fn => fn == 0
  | 1#1, 0#3, fn => fn ≤ 11
  | _, _, _ => false

/-- Check 2, the operand is of the type the operation fixes (R118). -/
def Operand.fits (x : Operand) (o : Opcode) : Bool := x.format == o.format

/-- The operation of an instruction (R113). -/
def Instr.opcode : Instr → Opcode
  | .bcdEnc _ => .bcdEnc
  | .bcdDec _ => .bcdDec
  | .timeEnc _ _ => .timeEnc
  | .timeDec _ _ => .timeDec
  | .statusEnc _ => .statusEnc
  | .statusDec _ => .statusDec
  | .controlEnc _ => .controlEnc
  | .controlDec _ => .controlDec
  | .alarmEnc _ => .alarmEnc
  | .alarmDec _ => .alarmDec
  | .tempDec _ => .tempDec
  | .openBus _ => .openBus
  | .getTime => .getTime
  | .setTime _ => .setTime
  | .terminate => .terminate
  | .getStatus => .getStatus
  | .setStatus _ => .setStatus
  | .getControl => .getControl
  | .setControl _ => .setControl
  | .getAlarm1 => .getAlarm1
  | .getAlarm2 => .getAlarm2
  | .setAlarm _ => .setAlarm
  | .getTemperature => .getTemperature

end Sys2Proof
end

