-- ==== Sys2Proof/Decode.lean ====
section
/-! DEFINITION. The opcode map, the decoder and the encoder (spec/30_encoding.md R111, R112, R113, R116). Decoding is total
on the 256 opcode bytes and every operand, and rejects by name. -/

namespace Sys2Proof

/-- One row of the opcode map: an opcode byte and its operation (R113; the match mask is 0xFF in every row). -/
structure OpcodeRow where
  op : Byte
  opcode : Opcode
  deriving DecidableEq, Repr

/-- The codec rows of the map (`S` = 0, R113). -/
def codecRows : List OpcodeRow :=
  [⟨0x01, .bcdEnc⟩, ⟨0x02, .bcdDec⟩, ⟨0x10, .timeEnc⟩, ⟨0x11, .timeDec⟩, ⟨0x20, .statusEnc⟩, ⟨0x21, .statusDec⟩,
   ⟨0x22, .controlEnc⟩, ⟨0x23, .controlDec⟩, ⟨0x30, .alarmEnc⟩, ⟨0x31, .alarmDec⟩, ⟨0x40, .tempDec⟩]

/-- The session rows of the map (`S` = 1, R113). -/
def sessionRows : List OpcodeRow :=
  [⟨0x80, .openBus⟩, ⟨0x81, .getTime⟩, ⟨0x82, .setTime⟩, ⟨0x83, .terminate⟩, ⟨0x84, .getStatus⟩, ⟨0x85, .setStatus⟩,
   ⟨0x86, .getControl⟩, ⟨0x87, .setControl⟩, ⟨0x88, .getAlarm1⟩, ⟨0x89, .getAlarm2⟩, ⟨0x8A, .setAlarm⟩,
   ⟨0x8B, .getTemperature⟩]

/-- The whole opcode map (R113). -/
def opcodeMap : List OpcodeRow := codecRows ++ sessionRows

/-- The operation of an opcode byte, none where the byte is unassigned (R116). -/
def opcodeOf (op : Byte) : Option Opcode :=
  (opcodeMap.find? (fun row => row.op == op)).map OpcodeRow.opcode

/-- What a request decodes to (R116, R118). -/
inductive Decoded where
  /-- an operation with an operand of its type -/
  | instr (i : Instr)
  /-- `Unassigned(op)`: the byte is in no row of the map (R116) -/
  | unassigned (op : Byte)
  /-- the operand is not of the type the opcode fixes: not a request (R118) -/
  | operandType (o : Opcode)
  deriving DecidableEq, Repr

/-- The operation `o` with the operand `x`, none where `x` is not of the type `o` takes (R112, R118). -/
def buildInstr (o : Opcode) (x : Operand) : Option Instr :=
  match o, x with
  | .bcdEnc, .fi v => some (.bcdEnc v)
  | .bcdDec, .fb b => some (.bcdDec b)
  | .timeEnc, .fte t c0 => some (.timeEnc t c0)
  | .timeDec, .ftd s c0 => some (.timeDec s c0)
  | .statusEnc, .fsf f => some (.statusEnc f)
  | .statusDec, .fs s => some (.statusDec s)
  | .controlEnc, .fcf f => some (.controlEnc f)
  | .controlDec, .fs s => some (.controlDec s)
  | .alarmEnc, .fa a => some (.alarmEnc a)
  | .alarmDec, .fs s => some (.alarmDec s)
  | .tempDec, .fs s => some (.tempDec s)
  | .openBus, .fcfg cfg => some (.openBus cfg)
  | .getTime, .f0 => some .getTime
  | .setTime, .ft t => some (.setTime t)
  | .terminate, .f0 => some .terminate
  | .getStatus, .f0 => some .getStatus
  | .setStatus, .fsf f => some (.setStatus f)
  | .getControl, .f0 => some .getControl
  | .setControl, .fcf f => some (.setControl f)
  | .getAlarm1, .f0 => some .getAlarm1
  | .getAlarm2, .f0 => some .getAlarm2
  | .setAlarm, .fa a => some (.setAlarm a)
  | .getTemperature, .f0 => some .getTemperature
  | _, _ => none

/-- The decoder: the opcode byte selects the operation, the operation fixes the operand's type (R116, R118, R119). -/
def decode (r : Request) : Decoded :=
  match opcodeOf r.op with
  | none => .unassigned r.op
  | some o =>
    match buildInstr o r.operand with
    | some i => .instr i
    | none => .operandType o

/-! The encoder, written from the field columns of R113 and the field places of R111, not from the opcode bytes. -/

/-- The fields `S`, `unit` and `fn` of an operation's opcode byte, as the columns of R113 give them. -/
def Opcode.fields : Opcode → Bit × BitVec 3 × BitVec 4
  | .bcdEnc => (0, 0, 1)
  | .bcdDec => (0, 0, 2)
  | .timeEnc => (0, 1, 0)
  | .timeDec => (0, 1, 1)
  | .statusEnc => (0, 2, 0)
  | .statusDec => (0, 2, 1)
  | .controlEnc => (0, 2, 2)
  | .controlDec => (0, 2, 3)
  | .alarmEnc => (0, 3, 0)
  | .alarmDec => (0, 3, 1)
  | .tempDec => (0, 4, 0)
  | .openBus => (1, 0, 0)
  | .getTime => (1, 0, 1)
  | .setTime => (1, 0, 2)
  | .terminate => (1, 0, 3)
  | .getStatus => (1, 0, 4)
  | .setStatus => (1, 0, 5)
  | .getControl => (1, 0, 6)
  | .setControl => (1, 0, 7)
  | .getAlarm1 => (1, 0, 8)
  | .getAlarm2 => (1, 0, 9)
  | .setAlarm => (1, 0, 10)
  | .getTemperature => (1, 0, 11)

/-- The opcode byte: `S` in bit 7, `unit` in bits 6:4, `fn` in bits 3:0 (R111). -/
def Opcode.byte (o : Opcode) : Byte := o.fields.1 ++ o.fields.2.1 ++ o.fields.2.2

/-- The operand an instruction carries (R112). -/
def Instr.operand : Instr → Operand
  | .bcdEnc v => .fi v
  | .bcdDec b => .fb b
  | .timeEnc t c0 => .fte t c0
  | .timeDec s c0 => .ftd s c0
  | .statusEnc f => .fsf f
  | .statusDec s => .fs s
  | .controlEnc f => .fcf f
  | .controlDec s => .fs s
  | .alarmEnc a => .fa a
  | .alarmDec s => .fs s
  | .tempDec s => .fs s
  | .openBus cfg => .fcfg cfg
  | .getTime => .f0
  | .setTime t => .ft t
  | .terminate => .f0
  | .getStatus => .f0
  | .setStatus f => .fsf f
  | .getControl => .f0
  | .setControl f => .fcf f
  | .getAlarm1 => .f0
  | .getAlarm2 => .f0
  | .setAlarm a => .fa a
  | .getTemperature => .f0

/-- The request that stands for an instruction: its opcode byte, then its operand (R110, R121). -/
def encode (i : Instr) : Request := ⟨i.opcode.byte, i.operand⟩

/-! The table word: an opcode byte alone. The opcode table gives the operand no bits, so a table word carries an operand
whose every component is zero or empty. -/

/-- The all-zero calendar time. -/
def zeroTime : CalendarTime := ⟨0, 0, 0, none, 0, 0, 0⟩

/-- The operand of a format whose every component is zero or empty (DESIGN CHOICE: notes/assumptions/10.md). -/
def Format.zeroOperand : Format → Operand
  | .f0 => .f0
  | .fi => .fi 0
  | .fb => .fb 0
  | .fs => .fs []
  | .fte => .fte zeroTime 0
  | .ftd => .ftd [] 0
  | .ft => .ft zeroTime
  | .fsf => .fsf ⟨0, 0, 0, 0, 0⟩
  | .fcf => .fcf ⟨0, 0, 0, 0, 0, 0, 0⟩
  | .fa => .fa (.alarm1 0 0 0 0 .everySecond)
  | .fcfg => .fcfg ⟨"", ⟨0⟩, 0⟩

/-- The request of an opcode byte with the zero operand of its format; an unassigned byte carries no operand. -/
def zeroRequest (op : Byte) : Request :=
  match opcodeOf op with
  | some o => ⟨op, o.format.zeroOperand⟩
  | none => ⟨op, .f0⟩

/-- The instruction the decoder reads from a table word: `nbits` is 8, one opcode byte (R110, R113). -/
def decodeTableWord (nbits w : Nat) : Option Instr :=
  if nbits = 8 ∧ w < 256 then
    match decode (zeroRequest (BitVec.ofNat 8 w)) with
    | .instr i => some i
    | .unassigned _ => none
    | .operandType _ => none
  else none

end Sys2Proof
end

