-- ==== Sys2Proof/Machine/State.lean ====
section
/-! DEFINITION. What the block holds and what crosses its ports, as plain data (spec/10_state.md Part A,
spec/60_exceptions.md R341, R342, spec/20_memory.md R84 to R87), the state after reset (R60, R370), and the names of what
can stop a step. -/

namespace Sys2Proof.Machine

/-- `mode` (R32). -/
inductive Mode where
  | closed
  | opened
  deriving DecidableEq, Repr

/-- The registers one accessor read can await (`AuxWaitRead(reg)`, R33). -/
inductive AuxRead where
  | status
  | control
  | alarm1
  | alarm2
  | temperature
  deriving DecidableEq, Repr

/-- The registers one accessor write can await (`AuxWaitWrite(reg)`, R33): temperature is never written. -/
inductive AuxWrite where
  | status
  | control
  | alarm1
  | alarm2
  deriving DecidableEq, Repr

/-- `phase`, the sequencing register (R33). -/
inductive Phase where
  | idle
  | waitOpen
  | waitTimeRead
  | stWaitStatusRead
  | stWaitDateWrite
  | stWaitStatusWrite
  | auxWaitRead (reg : AuxRead)
  | auxWaitWrite (reg : AuxWrite)
  deriving DecidableEq, Repr

/-- The session registers, doc00's DriverSession (R31). `OPEN` writes the four together and `TERMINATE` takes their values
together (R282, R300). -/
structure DriverSession where
  busHandle : BusHandle
  busAddress : BusAddr
  century0 : Int
  busName : String
  deriving DecidableEq, Repr

/-- `reg` of a FormatError's payload (R342). -/
inductive RegName where
  | bcd
  | time
  | status
  | control
  | alarm
  | alarm1
  | alarm2
  | temperature
  deriving DecidableEq, Repr

/-- `field` of a RangeError's payload (R342). -/
inductive FieldName where
  | value
  | second
  | minute
  | hour
  | dow
  | day
  | month
  | year
  | dayOrDate
  deriving DecidableEq, Repr

/-- An error: its class is the constructor, its payload the arguments (R341, R342). -/
inductive Error where
  | transport (e : TransportErr)
  | format (reg : RegName) (idx : Nat)
  | range (field : FieldName)
  deriving DecidableEq, Repr

/-- The value of an `Ok` response: the operation's value, or `()` (R341). A temperature is its `q`, in quarter degrees
(R43). -/
inductive Value where
  | unit
  | byte (b : Byte)
  | int (v : Int)
  | bytes (s : List Byte)
  | time (t : CalendarTime)
  | status (f : StatusFlags)
  | control (f : ControlFlags)
  | alarm (a : AlarmSpec)
  | temperature (q : Int)
  deriving DecidableEq, Repr

/-- A response (R35, R36, R341). -/
inductive Response where
  | ok (v : Value)
  | unset
  | err (e : Error)
  deriving DecidableEq, Repr

/-- A transaction as the block issues it, with the handle and address registers it uses (R82, R85, R86, R87). -/
inductive Txn where
  | busOpen (name : String)
  | busRead (handle : BusHandle) (address : BusAddr) (off : Byte) (n : Nat)
  | busWrite (handle : BusHandle) (address : BusAddr) (off : Byte) (data : List Byte)
  | busRelease (handle : BusHandle)
  deriving DecidableEq, Repr

/-- A log event `Log(op, class, payload)` (R35, R312): class and payload are the error's. -/
structure LogEvent where
  op : Opcode
  error : Error
  deriving DecidableEq, Repr

/-- What the block puts out on its response, transport and log ports (R35). -/
inductive Event where
  | issue (t : Txn)
  | log (e : LogEvent)
  | respond (r : Response)
  deriving DecidableEq, Repr

/-- One answer of the transport, a free draw (R96): a success or a failure with its payload. The `Ok` value has the shape
of the transaction it answers: an open takes the handle, a read takes the bytes (of any length), a write takes neither.
DESIGN CHOICE, safe: notes/assumptions/5.md. -/
inductive Draw where
  | ok (handle : BusHandle) (bytes : List Byte)
  | err (e : TransportErr)
  deriving DecidableEq, Repr

/-- Everything the spec gives the block. A register the spec says holds no value (R34, R60, R300) is an Option: that is
the spec's own state of it, not a value wanting (notes/assumptions/1.md). -/
structure State where
  /-- R32 -/
  mode : Mode
  /-- `bus_handle`, `bus_address`, `century_0`, `bus_name` (R31); no value in Closed (R32) -/
  session : Option DriverSession
  /-- R33 -/
  phase : Phase
  /-- `req`, the latched request (R34) -/
  req : Option Instr
  /-- `st_raw`, the status byte read in SET_TIME step 1 (R34) -/
  stRaw : Option Byte
  /-- `img`, the time image encoded in SET_TIME step 2 (R34) -/
  img : Option (Vector Byte 7)
  /-- `st_wb`, the status byte to write back in SET_TIME step 5 (R34) -/
  stWb : Option Byte
  /-- the requests the host holds at the request port, next first (R35, R280) -/
  requests : List Request
  /-- the answers the transport has given and the block has not taken, next first (R35, R96) -/
  answers : List Draw
  /-- what the block has put out on its ports, oldest first (R35) -/
  events : List Event
  deriving DecidableEq, Repr

/-- The reset state (R60, R370): `Closed`, `Idle`, no value in a session or scratch register, no response pending. That
the input lists are empty is a DESIGN CHOICE: notes/assumptions/4.md and 7.md. -/
def State.reset : State where
  mode := .closed
  session := none
  phase := .idle
  req := none
  stRaw := none
  img := none
  stWb := none
  requests := []
  answers := []
  events := []

/-- The model's own stops, none of which the spec has: a read of a register that holds no value, which the spec forbids a
model (R34, R60). No state that meets `State.Inv` raises one. -/
inductive Fault where
  /-- a session register is read while it holds no value; raised by a session request or an answer in `Open` with no
  session. Safe: the model stops where the spec gives no meaning. -/
  | sessionHasNoValue
  /-- a scratch register is read while it holds no value, or `req` holds another request than the phase names; raised by
  an answer step. Safe: the model stops where the spec gives no meaning. -/
  | scratchHasNoValue
  deriving DecidableEq, Repr

/-- The refusals of R350: the request has no meaning, and the run carries the mark from then on (notes/assumptions/9.md). -/
inductive Refusal where
  /-- an instruction the model gives no meaning yet; raised by exec's arms only. Safe. -/
  | notModelled (mnemonic : String)
  /-- `Unassigned(op)` (R117); raised when a request is accepted. Safe: the spec refuses it. -/
  | unassigned (op : Byte)
  /-- the operand is not of the type the opcode fixes (R118); raised when a request is accepted. Safe: the spec refuses it. -/
  | operandType (o : Opcode)
  /-- a session request in a mode its transition does not start from (R351); raised by a session request's meaning.
  Safe: the spec refuses it. -/
  | wrongMode (o : Opcode) (m : Mode)
  deriving DecidableEq, Repr

/-- The three outcomes of a step of this machine. -/
abbrev Outcome := Host.Outcome State Fault Refusal

end Sys2Proof.Machine
end

