-- ==== Sys2Proof/Machine/Operands.lean ====
section
/-! DEFINITION. The chip's register map (spec/20_memory.md R81), the layouts of its BCD fields (spec/10_state.md R46, R49),
and the one way a decoder reads a BCD field out of a byte (R168, R170, R241). -/

namespace Sys2Proof.Machine

/-! ### The register map (R81) -/

/-- The six registers of the map. -/
inductive ChipReg where
  | time
  | alarm1
  | alarm2
  | control
  | status
  | temperature
  deriving DecidableEq, Repr

/-- The offset column of R81. -/
def ChipReg.offset : ChipReg → Byte
  | .time => 0x00
  | .alarm1 => 0x07
  | .alarm2 => 0x0B
  | .control => 0x0E
  | .status => 0x0F
  | .temperature => 0x11

/-- The length column of R81. -/
def ChipReg.length : ChipReg → Nat
  | .time => 7
  | .alarm1 => 4
  | .alarm2 => 3
  | .control => 1
  | .status => 1
  | .temperature => 2

/-- The register an accessor read reads (R303, R305, R307, R309). -/
def AuxRead.chipReg : AuxRead → ChipReg
  | .status => .status
  | .control => .control
  | .alarm1 => .alarm1
  | .alarm2 => .alarm2
  | .temperature => .temperature

/-- The register an accessor write writes (R304, R306, R308). -/
def AuxWrite.chipReg : AuxWrite → ChipReg
  | .status => .status
  | .control => .control
  | .alarm1 => .alarm1
  | .alarm2 => .alarm2

/-! ### Bit fields (R11, R12) -/

/-- `b[k]`, bit `k` of a byte. -/
def bitAt (b : Byte) (k : Nat) : Bit := b.extractLsb' k 1

/-- A bit in place `k` of a byte that is otherwise 0. -/
def placeBit (x : Bit) (k : Nat) : Byte := x.setWidth 8 <<< k

/-- `sext_8(b)`: the byte read as two's complement (R12). -/
def sext8 (b : Byte) : Int := if b.toNat < 128 then b.toNat else b.toNat - 256

/-! ### BCD fields -/

/-- `bcd_dec`: none where a nibble exceeds 9 (R145). -/
def bcdDec (b : Byte) : Option Int :=
  let hi := (b.extractLsb' 4 4).toNat
  let lo := (b.extractLsb' 0 4).toNat
  if 9 < hi ∨ 9 < lo then none else some (10 * hi + lo)

/-- The byte `bcd_enc` returns where it does not fail: tens digit in bits 7:4, ones digit in bits 3:0 (R140). -/
def bcdByte (v : Int) : Byte := BitVec.ofInt 8 (v / 10) <<< 4 ||| BitVec.ofInt 8 (v % 10)

/-- `bcd_enc` (R140). -/
def bcdEnc (v : Int) : Except Error Byte :=
  if v < 0 ∨ 99 < v then .error (.range .value) else .ok (bcdByte v)

/-- A field of an image byte: the bits that must be zero, the bits of its value, and the value's range. -/
structure FieldRow where
  res : Byte
  val : Byte
  lo : Int
  hi : Int
  deriving DecidableEq, Repr

/-- Decode one field of image byte `idx` of register `reg`: reserved bits, then BCD, then range, the first failure a
FormatError with the register and the byte index (R166, R168, R170, R241, R345). -/
def decodeField (reg : RegName) (idx : Nat) (row : FieldRow) (b : Byte) : Except Error Int :=
  if b &&& row.res ≠ 0 then .error (.format reg idx)
  else
    match bcdDec (b &&& row.val) with
    | none => .error (.format reg idx)
    | some v => if row.lo ≤ v ∧ v ≤ row.hi then .ok v else .error (.format reg idx)

/-- The seven rows of the time image, `RES`, `VAL`, `LO`, `HI` (R46, R166). -/
def timeSecond : FieldRow := ⟨0x80, 0x7F, 0, 59⟩
def timeMinute : FieldRow := ⟨0x80, 0x7F, 0, 59⟩
def timeHour : FieldRow := ⟨0xC0, 0x3F, 0, 23⟩
def timeDow : FieldRow := ⟨0xF8, 0x07, 0, 7⟩
def timeDate : FieldRow := ⟨0xC0, 0x3F, 1, 31⟩
def timeMonth : FieldRow := ⟨0x60, 0x1F, 1, 12⟩
def timeYear : FieldRow := ⟨0x00, 0xFF, 0, 99⟩

/-- The rows of the alarm images (R49, R241, R242): bit 7 is the mask bit and is never reserved, bit 6 of the hour byte is
the 12/24 select, bit 6 of the day/date byte is DY. -/
def alarmSecond : FieldRow := ⟨0x00, 0x7F, 0, 59⟩
def alarmMinute : FieldRow := ⟨0x00, 0x7F, 0, 59⟩
def alarmHour : FieldRow := ⟨0x40, 0x3F, 0, 23⟩
/-- `dayrange(DY)`: 1..7 when DY = 1, else 1..31 (R230). -/
def alarmDay (dy : Bit) : FieldRow := ⟨0x00, 0x3F, 1, if dy = 1 then 7 else 31⟩

/-- An encoder's range check of one field: a RangeError that names the field (R160, R161, R230). -/
def checkRange (lo v hi : Int) (f : FieldName) : Except Error Unit :=
  if lo ≤ v ∧ v ≤ hi then .ok () else .error (.range f)

/-- The length check every decoder makes first: `FormatError(reg, min(len, n))` (R89, R167). -/
def lengthError (reg : RegName) (n : Nat) (s : List Byte) : Error := .format reg (min s.length n)

end Sys2Proof.Machine
end

