-- ==== Sys2Proof/Machine/Ops.lean ====
section
/-! DEFINITION. The named operations over the block's state: giving a response, completing a request, failing it (the
block's one form of taking an exception), issuing a transaction, opening and closing the session, and the mode check
(spec/45_orchestrator.md R280, R312, spec/60_exceptions.md R346, R350, R351). There is no return from an exception
(R347). -/

namespace Sys2Proof.Machine

/-- Put an event out on its port (R35). -/
def State.emit (s : State) (e : Event) : State := { s with events := s.events ++ [e] }

/-- Give the response of a codec request: it writes no register except the response (R280). -/
def State.respond (s : State) (r : Response) : State := s.emit (.respond r)

/-- The scratch registers lose their values (R34, R346). -/
def State.clearScratch (s : State) : State := { s with req := none, stRaw := none, img := none, stWb := none }

/-- Complete a session request: `phase <- Idle; resp <- r` (R280(c), R313). -/
def State.complete (s : State) (r : Response) : State := { s.clearScratch with phase := .idle }.respond r

/-- Fail a session request: one log event, then the error as the response; mode and session stay (R312, R344, R346). -/
def State.fail (s : State) (op : Opcode) (e : Error) : State := (s.emit (.log ⟨op, e⟩)).complete (.err e)

/-- A failed GET_TIME: the response is `Unset`, with a log event only where `LOG_GET_TIME_FAILURE` says so
(R285, R286, R312). -/
def State.failUnset (s : State) (e : Error) : State :=
  { s with events := s.events ++ (if Config.logGetTimeFailure then [Event.log ⟨.getTime, e⟩] else []) }.complete .unset

/-- Complete a session request with a codec's result: its value, or its error logged and surfaced (R303, R344). -/
def State.completeWith {α : Type} (s : State) (op : Opcode) (wrap : α → Value) (x : Except Error α) : State :=
  match x with
  | .ok v => s.complete (.ok (wrap v))
  | .error e => s.fail op e

/-- Issue a transaction and await its answer in phase `p` (R280, R33). -/
def State.issue (s : State) (p : Phase) (t : Txn) : State := { s.emit (.issue t) with phase := p }

/-- Accept a session request that awaits: latch it, issue its first transaction (R280(a)). -/
def State.start (s : State) (i : Instr) (p : Phase) (t : Txn) : State := { s with req := some i }.issue p t

/-- Write the session registers and `mode <- Open` (R282). -/
def State.openSession (s : State) (h : BusHandle) (cfg : OpenConfig) : State :=
  { s with mode := .opened, session := some ⟨h, cfg.busAddress, cfg.century0, cfg.busName⟩ }

/-- `mode <- Closed`, and the session registers lose their values (R300). -/
def State.closeSession (s : State) : State := { s with mode := .closed, session := none }

/-- The response to a codec's result (R341). -/
def responseOf {α : Type} (wrap : α → Value) (x : Except Error α) : Response :=
  match x with
  | .ok v => .ok (wrap v)
  | .error e => .err e

/-- Read the session registers; a read while they hold no value is a fault of the model (R34, R60). -/
def State.withSession (s : State) (k : DriverSession → Outcome) : Outcome :=
  match s.session with
  | none => .fault .sessionHasNoValue
  | some d => k d

/-- The mode check of every session request but OPEN: legal in Open, refused in Closed (R351). -/
def State.inOpen (s : State) (op : Opcode) (k : DriverSession → Outcome) : Outcome :=
  match s.mode with
  | .closed => .refused (.wrongMode op .closed)
  | .opened => s.withSession k

/-- Take the next answer of the transport, or wait while there is none (R280(b); notes/assumptions/8.md). -/
def State.withAnswer (s : State) (k : Draw → State → Outcome) : Outcome :=
  match s.answers with
  | [] => .next s
  | a :: rest => k a { s with answers := rest }

/-- `BusRead(off, n)` of a whole register in this session (R82, R85). -/
def DriverSession.read (d : DriverSession) (r : ChipReg) : Txn := .busRead d.busHandle d.busAddress r.offset r.length

/-- `BusWrite(off, data)` at a register's base in this session (R82, R86). -/
def DriverSession.write (d : DriverSession) (r : ChipReg) (data : List Byte) : Txn :=
  .busWrite d.busHandle d.busAddress r.offset data

/-! ### The transport contract (R84 to R87) -/

/-- The contract's functions, and the release event the block adds (R84, R87). -/
inductive TransportCall where
  | open_ (busName : String)
  | write (handle : BusHandle) (address : BusAddr) (bytes : List Byte)
  | writeThenRead (handle : BusHandle) (address : BusAddr) (writeBytes : List Byte) (readLength : Nat)
  | release (handle : BusHandle)
  deriving DecidableEq, Repr

/-- The call a transaction is: the offset byte goes first (R85, R86, R87). -/
def Txn.call : Txn → TransportCall
  | .busOpen name => .open_ name
  | .busRead h a off n => .writeThenRead h a [off] n
  | .busWrite h a off data => .write h a (off :: data)
  | .busRelease h => .release h

/-! ### Views of the ports -/

/-- The responses given, oldest first. -/
def responsesIn (es : List Event) : List Response :=
  es.filterMap fun e => match e with
    | .respond r => some r
    | .issue _ => none
    | .log _ => none

/-- The transactions issued, oldest first. -/
def issuedIn (es : List Event) : List Txn :=
  es.filterMap fun e => match e with
    | .issue t => some t
    | .respond _ => none
    | .log _ => none

/-- The log events emitted, oldest first. -/
def logsIn (es : List Event) : List LogEvent :=
  es.filterMap fun e => match e with
    | .log l => some l
    | .issue _ => none
    | .respond _ => none

def State.responses (s : State) : List Response := responsesIn s.events
def State.issued (s : State) : List Txn := issuedIn s.events
def State.logs (s : State) : List LogEvent := logsIn s.events

/-- The session registers one by one (R31). -/
def State.busHandle (s : State) : Option BusHandle := s.session.map DriverSession.busHandle
def State.busAddress (s : State) : Option BusAddr := s.session.map DriverSession.busAddress
def State.century0 (s : State) : Option Int := s.session.map DriverSession.century0
def State.busName (s : State) : Option String := s.session.map DriverSession.busName

/-! ### Response codes (R341) -/

/-- The error classes of R341. -/
inductive ErrorClass where
  | transportError
  | formatError
  | rangeError
  deriving DecidableEq, Repr

/-- The class of an error. -/
def Error.kind : Error → ErrorClass
  | .transport _ => .transportError
  | .format _ _ => .formatError
  | .range _ => .rangeError

/-- The numeric code of a response (R341). -/
def Response.code : Response → Nat
  | .ok _ => 0
  | .err (.transport _) => 1
  | .err (.format _ _) => 2
  | .err (.range _) => 3
  | .unset => 4

/-- A reset while the machine runs: every block register to its reset value, no transaction issued, so a handle held is
forgotten and not released (R371). What stands on the ports stays: notes/assumptions/13.md. -/
def State.afterReset (s : State) : State :=
  { State.reset with requests := s.requests, answers := s.answers, events := s.events }

end Sys2Proof.Machine
end

