-- ==== Sys2Proof/Machine/Bcd.lean ====
section
/-! DEFINITION. The BCD codec requests (spec/40_bcd.md). `bcdEnc` and `bcdDec` stand in Operands.lean. -/

namespace Sys2Proof.Machine

/-- BCD_ENC (R140). -/
def execBcdEnc (v : Int) (s : State) : Outcome := .next (s.respond (responseOf .byte (bcdEnc v)))

/-- `bcd_dec` as the BCD_DEC request reports it: FormatError(Bcd, 0) (R145). -/
def bcdDecReported (b : Byte) : Except Error Int :=
  match bcdDec b with
  | none => .error (.format .bcd 0)
  | some v => .ok v

/-- BCD_DEC (R145). -/
def execBcdDec (b : Byte) (s : State) : Outcome := .next (s.respond (responseOf .int (bcdDecReported b)))

end Sys2Proof.Machine
end

