-- ==== Sys2Proof/Machine/AlarmCodec.lean ====
section
/-! DEFINITION. The alarm register codec (spec/43_alarm_codec.md; layouts spec/10_state.md R48 to R51). -/

namespace Sys2Proof.Machine

/-- The mask bits and the day selector bit an alarm 1 mode packs to, in the order M1, M2, M3, M4, DY (R230). -/
structure Masks1 where
  m1 : Bit
  m2 : Bit
  m3 : Bit
  m4 : Bit
  dy : Bit
  deriving DecidableEq, Repr

/-- The same for alarm 2, which has no M1 (R230). -/
structure Masks2 where
  m2 : Bit
  m3 : Bit
  m4 : Bit
  dy : Bit
  deriving DecidableEq, Repr

/-- The DY bit of a day selector (R49). -/
def DaySel.bit : DaySel → Bit
  | .dayOfMonth => 0
  | .dayOfWeek => 1

/-- The day selector of a DY bit (R241). -/
def daySelOf (dy : Bit) : DaySel := if dy = 1 then .dayOfWeek else .dayOfMonth

/-- `masks1` (R230). -/
def masks1 : A1Mode → Masks1
  | .everySecond => ⟨1, 1, 1, 1, 0⟩
  | .matchS => ⟨0, 1, 1, 1, 0⟩
  | .matchMS => ⟨0, 0, 1, 1, 0⟩
  | .matchHMS => ⟨0, 0, 0, 1, 0⟩
  | .matchDHMS sel => ⟨0, 0, 0, 0, DaySel.bit sel⟩

/-- `masks2` (R230). -/
def masks2 : A2Mode → Masks2
  | .everyMinute => ⟨1, 1, 1, 0⟩
  | .matchM => ⟨0, 1, 1, 0⟩
  | .matchHM => ⟨0, 0, 1, 0⟩
  | .matchDHM sel => ⟨0, 0, 0, DaySel.bit sel⟩

/-- `alarm_enc`: the masks of the mode, the range checks in order, then the image (R230, R231, R232). -/
def alarmEnc (a : AlarmSpec) : Except Error (List Byte) :=
  match a with
  | .alarm1 sec min hour day mode => do
    let m := masks1 mode
    checkRange 0 sec 59 .second
    checkRange 0 min 59 .minute
    checkRange 0 hour 23 .hour
    checkRange (alarmDay m.dy).lo day (alarmDay m.dy).hi .dayOrDate
    return [placeBit m.m1 7 ||| bcdByte sec, placeBit m.m2 7 ||| bcdByte min, placeBit m.m3 7 ||| bcdByte hour,
            placeBit m.m4 7 ||| placeBit m.dy 6 ||| bcdByte day]
  | .alarm2 min hour day mode => do
    let m := masks2 mode
    checkRange 0 min 59 .minute
    checkRange 0 hour 23 .hour
    checkRange (alarmDay m.dy).lo day (alarmDay m.dy).hi .dayOrDate
    return [placeBit m.m2 7 ||| bcdByte min, placeBit m.m3 7 ||| bcdByte hour,
            placeBit m.m4 7 ||| placeBit m.dy 6 ||| bcdByte day]

/-- The index an illogical mask sequence is reported at: the smallest `j` with `M[j−1] = 1` and `M[j] = 0`, counting the
head of the list as index `j − 1` (R244). -/
def illogicalAt (j : Nat) : List Bit → Nat
  | a :: b :: rest => if a = 1 ∧ b = 0 then j else illogicalAt (j + 1) (b :: rest)
  | _ => j

/-- The mode of alarm 1's mask bits, in byte order M1, M2, M3, M4 (R50, R241, R245). -/
def a1ModeOf (m1 m2 m3 m4 dy : Bit) : Except Error A1Mode :=
  if (m4, m3, m2, m1) = (1, 1, 1, 1) then .ok .everySecond
  else if (m4, m3, m2, m1) = (1, 1, 1, 0) then .ok .matchS
  else if (m4, m3, m2, m1) = (1, 1, 0, 0) then .ok .matchMS
  else if (m4, m3, m2, m1) = (1, 0, 0, 0) then .ok .matchHMS
  else if (m4, m3, m2, m1) = (0, 0, 0, 0) then .ok (.matchDHMS (daySelOf dy))
  else .error (.format .alarm1 (illogicalAt 1 [m1, m2, m3, m4]))

/-- The mode of alarm 2's mask bits, in byte order M2, M3, M4 (R51, R242, R245). -/
def a2ModeOf (m2 m3 m4 dy : Bit) : Except Error A2Mode :=
  if (m4, m3, m2) = (1, 1, 1) then .ok .everyMinute
  else if (m4, m3, m2) = (1, 1, 0) then .ok .matchM
  else if (m4, m3, m2) = (1, 0, 0) then .ok .matchHM
  else if (m4, m3, m2) = (0, 0, 0) then .ok (.matchDHM (daySelOf dy))
  else .error (.format .alarm2 (illogicalAt 1 [m2, m3, m4]))

/-- `alarm1_dec`: the length, the fields in byte order, then the mode (R241). -/
def alarm1Dec (s : List Byte) : Except Error AlarmSpec :=
  match s with
  | [b0, b1, b2, b3] => do
    let sec ← decodeField .alarm1 0 alarmSecond b0
    let min ← decodeField .alarm1 1 alarmMinute b1
    let hour ← decodeField .alarm1 2 alarmHour b2
    let day ← decodeField .alarm1 3 (alarmDay (bitAt b3 6)) b3
    let mode ← a1ModeOf (bitAt b0 7) (bitAt b1 7) (bitAt b2 7) (bitAt b3 7) (bitAt b3 6)
    return .alarm1 sec min hour day mode
  | _ => .error (lengthError .alarm1 4 s)

/-- `alarm2_dec` (R242). -/
def alarm2Dec (s : List Byte) : Except Error AlarmSpec :=
  match s with
  | [b0, b1, b2] => do
    let min ← decodeField .alarm2 0 alarmMinute b0
    let hour ← decodeField .alarm2 1 alarmHour b1
    let day ← decodeField .alarm2 2 (alarmDay (bitAt b2 6)) b2
    let mode ← a2ModeOf (bitAt b0 7) (bitAt b1 7) (bitAt b2 7) (bitAt b2 6)
    return .alarm2 min hour day mode
  | _ => .error (lengthError .alarm2 3 s)

/-- `alarm_dec`: the length selects the alarm (R240). -/
def alarmDec (s : List Byte) : Except Error AlarmSpec :=
  if s.length = 4 then alarm1Dec s
  else if s.length = 3 then alarm2Dec s
  else .error (lengthError .alarm 4 s)

/-- ALARM_ENC (R230). -/
def execAlarmEnc (a : AlarmSpec) (s : State) : Outcome := .next (s.respond (responseOf .bytes (alarmEnc a)))

/-- ALARM_DEC (R240). -/
def execAlarmDec (bs : List Byte) (s : State) : Outcome := .next (s.respond (responseOf .alarm (alarmDec bs)))

end Sys2Proof.Machine
end

