-- ==== Sys2Proof/Machine/Flags.lean ====
section
/-! DEFINITION. The flag computations of the status and control registers (spec/42_status_control_codec.md R200 to R206, bit
places spec/10_state.md R52, R54). The bit places are general knowledge the spec adopts (D15, D16):
notes/assumptions/14.md. -/

namespace Sys2Proof.Machine

/-- `status_enc`: each flag to its bit, bits 6:4 zero (R200). -/
def statusEnc (f : StatusFlags) : Byte :=
  placeBit f.osf 7 ||| placeBit f.en32khz 3 ||| placeBit f.bsy 2 ||| placeBit f.a2f 1 ||| placeBit f.a1f 0

/-- The flags of a status byte, bits 6:4 ignored (R201). -/
def statusFlagsOf (b : Byte) : StatusFlags where
  osf := bitAt b 7
  a1f := bitAt b 0
  a2f := bitAt b 1
  bsy := bitAt b 2
  en32khz := bitAt b 3

/-- `status_dec` (R201). -/
def statusDec (s : List Byte) : Except Error StatusFlags :=
  match s with
  | [b] => .ok (statusFlagsOf b)
  | _ => .error (lengthError .status 1 s)

/-- `status_clear_osf`: the status byte through the codec with `osf` forced to 0 (R204). -/
def statusClearOsf (b : Byte) : Byte := statusEnc { statusFlagsOf b with osf := 0 }

/-- `control_enc` (R205). -/
def controlEnc (f : ControlFlags) : Byte :=
  placeBit f.eosc 7 ||| placeBit f.bbsqw 6 ||| placeBit f.conv 5 ||| (f.rs.setWidth 8 <<< 3) |||
    placeBit f.intcn 2 ||| placeBit f.a2ie 1 ||| placeBit f.a1ie 0

/-- The flags of a control byte (R206). -/
def controlFlagsOf (b : Byte) : ControlFlags where
  a1ie := bitAt b 0
  a2ie := bitAt b 1
  intcn := bitAt b 2
  rs := b.extractLsb' 3 2
  conv := bitAt b 5
  bbsqw := bitAt b 6
  eosc := bitAt b 7

/-- `control_dec` (R206). -/
def controlDec (s : List Byte) : Except Error ControlFlags :=
  match s with
  | [b] => .ok (controlFlagsOf b)
  | _ => .error (lengthError .control 1 s)

end Sys2Proof.Machine
end

