-- ==== Sys2Proof/Machine/TempCodec.lean ====
section
/-! DEFINITION. The temperature register codec (spec/44_temperature_codec.md). There is no encode (R273). -/

namespace Sys2Proof.Machine

/-- `temp_dec`: quarter degrees Celsius, the fraction added to the signed integer part (R270, R271). -/
def tempDec (s : List Byte) : Except Error Int :=
  match s with
  | [b0, b1] => .ok (4 * sext8 b0 + (b1.extractLsb' 6 2).toNat)
  | _ => .error (lengthError .temperature 2 s)

/-- TEMP_DEC (R270). -/
def execTempDec (bs : List Byte) (s : State) : Outcome := .next (s.respond (responseOf .temperature (tempDec bs)))

end Sys2Proof.Machine
end

