-- ==== Sys2Proof/Machine/TimeCodec.lean ====
section
/-! DEFINITION. The date/time register codec (spec/41_time_codec.md). -/

namespace Sys2Proof.Machine

/-- The century bit and the 2-digit year of a year, by the two adjacent windows of the century base (R160, R162). -/
def centuryOf (year c0 : Int) : Except Error (Bit × Int) :=
  let c1 := c0 + Config.centurySpan
  if c0 ≤ year ∧ year ≤ c0 + 99 then .ok (0, year - c0)
  else if c1 ≤ year ∧ year ≤ c1 + 99 then .ok (1, year - c1)
  else .error (.range .year)

/-- The range check of `dow`, absent or 1..7 (R161). -/
def checkDow (dow : Option Int) : Except Error Unit :=
  match dow with
  | none => .ok ()
  | some w => checkRange 1 w 7 .dow

/-- Byte 3 of the image: the day of week, 0 when absent (R160, D10). -/
def dowByte (dow : Option Int) : Byte :=
  match dow with
  | none => 0
  | some w => BitVec.ofInt 8 w

/-- The time image of checked fields (R160, second half). -/
def timeImage (t : CalendarTime) (cb : Bit) (yy : Int) : Vector Byte 7 :=
  #v[bcdByte t.second, bcdByte t.minute, bcdByte t.hour, dowByte t.dow, bcdByte t.day,
     placeBit cb 7 ||| bcdByte t.month, bcdByte yy]

/-- `time_enc`: the range checks in the order of R161, then the image (R160). -/
def timeEnc (t : CalendarTime) (c0 : Int) : Except Error (Vector Byte 7) := do
  checkRange 0 t.second 59 .second
  checkRange 0 t.minute 59 .minute
  checkRange 0 t.hour 23 .hour
  checkDow t.dow
  checkRange 1 t.day 31 .day
  checkRange 1 t.month 12 .month
  let (cb, yy) ← centuryOf t.year c0
  return timeImage t cb yy

/-- The calendar time of decoded fields (R166, R169). -/
def timeOf (sec min hour dow day month yy : Int) (cb : Bit) (c0 : Int) : CalendarTime where
  second := sec
  minute := min
  hour := hour
  dow := if dow = 0 then none else some dow
  day := day
  month := month
  year := (if cb = 0 then c0 else c0 + Config.centurySpan) + yy

/-- `time_dec`: the length, then the bytes in ascending order, the first failure ending it (R166, R167). -/
def timeDec (s : List Byte) (c0 : Int) : Except Error CalendarTime :=
  match s with
  | [b0, b1, b2, b3, b4, b5, b6] => do
    let sec ← decodeField .time 0 timeSecond b0
    let min ← decodeField .time 1 timeMinute b1
    let hour ← decodeField .time 2 timeHour b2
    let dow ← decodeField .time 3 timeDow b3
    let day ← decodeField .time 4 timeDate b4
    let month ← decodeField .time 5 timeMonth b5
    let yy ← decodeField .time 6 timeYear b6
    return timeOf sec min hour dow day month yy (bitAt b5 7) c0
  | _ => .error (lengthError .time 7 s)

/-- A time image as an `Ok` value. -/
def imageValue (v : Vector Byte 7) : Value := .bytes v.toList

/-- TIME_ENC (R160). -/
def execTimeEnc (t : CalendarTime) (c0 : Int) (s : State) : Outcome :=
  .next (s.respond (responseOf imageValue (timeEnc t c0)))

/-- TIME_DEC (R166). -/
def execTimeDec (bs : List Byte) (c0 : Int) (s : State) : Outcome :=
  .next (s.respond (responseOf .time (timeDec bs c0)))

end Sys2Proof.Machine
end

