-- ==== Sys2Proof/Machine/Orchestrator.lean ====
section
/-! DEFINITION. The session requests (spec/45_orchestrator.md). `exec<Request>` is the step that accepts the request, up to
its first `await`; `answer<Phase>` is the step that takes the transport's answer in that phase, up to the next `await` or
the completion (R280). -/

namespace Sys2Proof.Machine

/-! ### OPEN (R282) -/

/-- OPEN: legal in Closed only (R351); issues `BusOpen(cfg.bus_name)`. -/
def execOpenBus (cfg : OpenConfig) (s : State) : Outcome :=
  match s.mode with
  | .opened => .refused (.wrongMode .openBus .opened)
  | .closed => .next (s.start (.openBus cfg) .waitOpen (.busOpen cfg.busName))

/-- OPEN's answer: the session registers and the mode on success, neither on failure. -/
def answerOpen (a : Draw) (s : State) : Outcome :=
  match s.req with
  | some (.openBus cfg) =>
    match a with
    | .ok h _ => .next ((s.openSession h cfg).complete (.ok .unit))
    | .err e => .next (s.fail .openBus (.transport e))
  | _ => .fault .scratchHasNoValue

/-! ### GET_TIME (R285) -/

/-- GET_TIME: issues `BusRead(0x00, 7)`. -/
def execGetTime (s : State) : Outcome :=
  s.inOpen .getTime fun d => .next (s.start .getTime .waitTimeRead (d.read .time))

/-- GET_TIME's answer: the decoded time, or `Unset` on any bus or decode failure (R285, R286). -/
def answerTimeRead (a : Draw) (s : State) : Outcome :=
  match a with
  | .err e => .next (s.failUnset (.transport e))
  | .ok _ bs => s.withSession fun d =>
    match timeDec bs d.century0 with
    | .ok t => .next (s.complete (.ok (.time t)))
    | .error x => .next (s.failUnset x)

/-! ### SET_TIME (R290) -/

/-- SET_TIME, step 1: issues the status read. -/
def execSetTime (t : CalendarTime) (s : State) : Outcome :=
  s.inOpen .setTime fun d => .next (s.start (.setTime t) .stWaitStatusRead (d.read .status))

/-- SET_TIME, step 2 and the issue of step 3: encode the time with the session's century base, write the 7 date bytes. -/
def setTimeEncode (t : CalendarTime) (d : DriverSession) (s : State) : State :=
  match timeEnc t d.century0 with
  | .error x => s.fail .setTime x
  | .ok img => { s with img := some img }.issue .stWaitDateWrite (d.write .time img.toList)

/-- SET_TIME, the answer of step 1: `st_raw <- s[0]`, the one byte `status_dec` accepted, and on to step 2. -/
def answerStatusRead (a : Draw) (s : State) : Outcome :=
  match a with
  | .err e => .next (s.fail .setTime (.transport e))
  | .ok _ bs =>
    match statusDec bs with
    | .error x => .next (s.fail .setTime x)
    | .ok _ => s.withSession fun d =>
      match s.req with
      | some (.setTime t) => .next (setTimeEncode t d { s with stRaw := bs.head? })
      | _ => .fault .scratchHasNoValue

/-- SET_TIME, the answer of step 3, step 4 and the issue of step 5: clear the oscillator-stop flag in the byte read in
step 1, write it back (R294). -/
def answerDateWrite (a : Draw) (s : State) : Outcome :=
  match a with
  | .err e => .next (s.fail .setTime (.transport e))
  | .ok _ _ => s.withSession fun d =>
    match s.stRaw with
    | none => .fault .scratchHasNoValue
    | some b =>
      .next ({ s with stWb := some (statusClearOsf b) }.issue .stWaitStatusWrite (d.write .status [statusClearOsf b]))

/-- SET_TIME, the answer of step 5. -/
def answerStatusWrite (a : Draw) (s : State) : Outcome :=
  match a with
  | .err e => .next (s.fail .setTime (.transport e))
  | .ok _ _ => .next (s.complete (.ok .unit))

/-! ### TERMINATE (R300) -/

/-- TERMINATE: releases the handle, awaits no answer, closes the session. -/
def execTerminate (s : State) : Outcome :=
  s.inOpen .terminate fun d => .next ((s.emit (.issue (.busRelease d.busHandle))).closeSession.complete (.ok .unit))

/-! ### The accessors (R303 to R309) -/

/-- An accessor read accepted: one read of its register (R303, R305, R307, R309). -/
def startRead (i : Instr) (r : AuxRead) (s : State) : Outcome :=
  s.inOpen i.opcode fun d => .next (s.start i (.auxWaitRead r) (d.read r.chipReg))

/-- An accessor write accepted: one write of the encoded image at its register (R304, R306, R308). -/
def startWrite (i : Instr) (r : AuxWrite) (data : List Byte) (s : State) : Outcome :=
  s.inOpen i.opcode fun d => .next (s.start i (.auxWaitWrite r) (d.write r.chipReg data))

/-- GET_STATUS (R303). -/
def execGetStatus (s : State) : Outcome := startRead .getStatus .status s

/-- SET_STATUS (R304). -/
def execSetStatus (f : StatusFlags) (s : State) : Outcome := startWrite (.setStatus f) .status [statusEnc f] s

/-- GET_CONTROL (R305). -/
def execGetControl (s : State) : Outcome := startRead .getControl .control s

/-- SET_CONTROL (R306). -/
def execSetControl (f : ControlFlags) (s : State) : Outcome := startWrite (.setControl f) .control [controlEnc f] s

/-- GET_ALARM1 (R307). -/
def execGetAlarm1 (s : State) : Outcome := startRead .getAlarm1 .alarm1 s

/-- GET_ALARM2 (R307). -/
def execGetAlarm2 (s : State) : Outcome := startRead .getAlarm2 .alarm2 s

/-- The register SET_ALARM writes, by the spec's alarm number (R308). -/
def alarmTarget : AlarmSpec → AuxWrite
  | .alarm1 _ _ _ _ _ => .alarm1
  | .alarm2 _ _ _ _ => .alarm2

/-- SET_ALARM: a RangeError is raised before any transaction (R308). -/
def execSetAlarm (a : AlarmSpec) (s : State) : Outcome :=
  s.inOpen .setAlarm fun d =>
    match alarmEnc a with
    | .error x => .next (s.fail .setAlarm x)
    | .ok img => .next (s.start (.setAlarm a) (.auxWaitWrite (alarmTarget a)) (d.write (alarmTarget a).chipReg img))

/-- GET_TEMPERATURE (R309). -/
def execGetTemperature (s : State) : Outcome := startRead .getTemperature .temperature s

/-- The operation an accessor read belongs to. -/
def AuxRead.opcode : AuxRead → Opcode
  | .status => .getStatus
  | .control => .getControl
  | .alarm1 => .getAlarm1
  | .alarm2 => .getAlarm2
  | .temperature => .getTemperature

/-- The operation an accessor write belongs to. -/
def AuxWrite.opcode : AuxWrite → Opcode
  | .status => .setStatus
  | .control => .setControl
  | .alarm1 => .setAlarm
  | .alarm2 => .setAlarm

/-- An accessor read completed with the bytes it answered: each accessor's decoder is the one of its register, an
alarm's by the opcode and not by the length (R303, R305, R307, R309). -/
def completeRead (r : AuxRead) (bs : List Byte) (s : State) : State :=
  match r with
  | .status => s.completeWith .getStatus .status (statusDec bs)
  | .control => s.completeWith .getControl .control (controlDec bs)
  | .alarm1 => s.completeWith .getAlarm1 .alarm (alarm1Dec bs)
  | .alarm2 => s.completeWith .getAlarm2 .alarm (alarm2Dec bs)
  | .temperature => s.completeWith .getTemperature .temperature (tempDec bs)

/-- An accessor read's answer. -/
def answerAuxRead (r : AuxRead) (a : Draw) (s : State) : Outcome :=
  match a with
  | .err e => .next (s.fail r.opcode (.transport e))
  | .ok _ bs => .next (completeRead r bs s)

/-- An accessor write's answer. -/
def answerAuxWrite (r : AuxWrite) (a : Draw) (s : State) : Outcome :=
  match a with
  | .err e => .next (s.fail r.opcode (.transport e))
  | .ok _ _ => .next (s.complete (.ok .unit))

/-! ### What the block awaits -/

/-- The transaction in flight, computed from the phase and the registers (R33, R82, R98); none in `Idle`. -/
def State.awaited (s : State) : Option Txn :=
  match s.phase with
  | .idle => none
  | .waitOpen =>
    match s.req with
    | some (.openBus cfg) => some (.busOpen cfg.busName)
    | _ => none
  | .waitTimeRead => s.session.map fun d => d.read .time
  | .stWaitStatusRead => s.session.map fun d => d.read .status
  | .stWaitDateWrite => s.session.bind fun d => s.img.map fun img => d.write .time img.toList
  | .stWaitStatusWrite => s.session.bind fun d => s.stWb.map fun b => d.write .status [b]
  | .auxWaitRead r => s.session.map fun d => d.read r.chipReg
  | .auxWaitWrite r =>
    s.session.bind fun d =>
      match s.req with
      | some (.setStatus f) => some (d.write r.chipReg [statusEnc f])
      | some (.setControl f) => some (d.write r.chipReg [controlEnc f])
      | some (.setAlarm a) => (alarmEnc a).toOption.map fun img => d.write r.chipReg img
      | _ => none

end Sys2Proof.Machine
end

