-- ==== Sys2Proof/Machine/StatusControl.lean ====
section
/-! DEFINITION. The status and control codec requests (spec/42_status_control_codec.md). The flag computations stand in
Flags.lean. -/

namespace Sys2Proof.Machine

/-- STATUS_ENC (R200). -/
def execStatusEnc (f : StatusFlags) (s : State) : Outcome := .next (s.respond (.ok (.byte (statusEnc f))))

/-- STATUS_DEC (R201). -/
def execStatusDec (bs : List Byte) (s : State) : Outcome := .next (s.respond (responseOf .status (statusDec bs)))

/-- CONTROL_ENC (R205). -/
def execControlEnc (f : ControlFlags) (s : State) : Outcome := .next (s.respond (.ok (.byte (controlEnc f))))

/-- CONTROL_DEC (R206). -/
def execControlDec (bs : List Byte) (s : State) : Outcome := .next (s.respond (responseOf .control (controlDec bs)))

end Sys2Proof.Machine
end

