-- ==== Sys2Proof/Machine/Dispatch.lean ====
section
/-! DEFINITION. The one arm per request that calls its meaning: the accepting step of R280(a). -/

namespace Sys2Proof.Machine

def exec (i : Instr) (s : State) : Host.Outcome State Fault Refusal :=
  match i with
  | .bcdEnc v => Sys2Proof.Machine.execBcdEnc v s
  | .bcdDec b => Sys2Proof.Machine.execBcdDec b s
  | .timeEnc t c0 => Sys2Proof.Machine.execTimeEnc t c0 s
  | .timeDec bs c0 => Sys2Proof.Machine.execTimeDec bs c0 s
  | .statusEnc f => Sys2Proof.Machine.execStatusEnc f s
  | .statusDec bs => Sys2Proof.Machine.execStatusDec bs s
  | .controlEnc f => Sys2Proof.Machine.execControlEnc f s
  | .controlDec bs => Sys2Proof.Machine.execControlDec bs s
  | .alarmEnc a => Sys2Proof.Machine.execAlarmEnc a s
  | .alarmDec bs => Sys2Proof.Machine.execAlarmDec bs s
  | .tempDec bs => Sys2Proof.Machine.execTempDec bs s
  | .openBus cfg => Sys2Proof.Machine.execOpenBus cfg s
  | .getTime => Sys2Proof.Machine.execGetTime s
  | .setTime t => Sys2Proof.Machine.execSetTime t s
  | .terminate => Sys2Proof.Machine.execTerminate s
  | .getStatus => Sys2Proof.Machine.execGetStatus s
  | .setStatus f => Sys2Proof.Machine.execSetStatus f s
  | .getControl => Sys2Proof.Machine.execGetControl s
  | .setControl f => Sys2Proof.Machine.execSetControl f s
  | .getAlarm1 => Sys2Proof.Machine.execGetAlarm1 s
  | .getAlarm2 => Sys2Proof.Machine.execGetAlarm2 s
  | .setAlarm a => Sys2Proof.Machine.execSetAlarm a s
  | .getTemperature => Sys2Proof.Machine.execGetTemperature s

end Sys2Proof.Machine
end

