-- ==== Sys2Proof/Machine/Sequencer.lean ====
section
/-! DEFINITION. The orchestrator's sequencing (spec/45_orchestrator.md R280, R99): in `Idle` it accepts the next request at
the request port, in every other phase it takes the transport's answer to the transaction in flight. -/

namespace Sys2Proof.Machine

/-- Run what a request decodes to; what is no operation is refused (R116, R117, R118, R350). -/
def runDecoded (d : Decoded) (s : State) : Outcome :=
  match d with
  | .instr i => exec i s
  | .unassigned op => .refused (.unassigned op)
  | .operandType o => .refused (.operandType o)

/-- Accept the next request (R280(a)); with none at the port the block stays as it is (notes/assumptions/8.md). -/
def accept (s : State) : Outcome :=
  match s.requests with
  | [] => .next s
  | r :: rest => runDecoded (decode r) { s with requests := rest }

/-- One step of the orchestrator (R280), by its phase (R33). -/
def advance (s : State) : Outcome :=
  match s.phase with
  | .idle => accept s
  | .waitOpen => s.withAnswer answerOpen
  | .waitTimeRead => s.withAnswer answerTimeRead
  | .stWaitStatusRead => s.withAnswer answerStatusRead
  | .stWaitDateWrite => s.withAnswer answerDateWrite
  | .stWaitStatusWrite => s.withAnswer answerStatusWrite
  | .auxWaitRead r => s.withAnswer (answerAuxRead r)
  | .auxWaitWrite r => s.withAnswer (answerAuxWrite r)

/-- The request a table word stands for: its low byte is the opcode byte, and the operand, which has no bits in the table,
is the zero operand of the opcode's format (notes/assumptions/10.md). -/
def tableRequest (w : Nat) : Request := zeroRequest (BitVec.ofNat 8 w)

/-- Put a request first at the request port of a block that accepts: `Idle`, with no request in flight
(notes/assumptions/11.md). -/
def State.place (s : State) (r : Request) : State :=
  { s.clearScratch with phase := .idle, requests := r :: s.requests }

end Sys2Proof.Machine
end

