-- ==== Sys2Proof/Machine/Step.lean ====
section
/-! DEFINITION. One step of the machine, and where a step takes its next request from. -/

namespace Sys2Proof.Machine

/-- One step: the acceptance of a request, or the arrival of one answer (spec/10_state.md R35, spec/45_orchestrator.md
R280). -/
def step (s : State) : Host.Outcome State Fault Refusal := advance s

/-- The state whose very next step accepts the request of a table word: the block idle, the request first at its port. -/
def State.withFetchWord (s : State) (_nbits w : Nat) : State := s.place (tableRequest w)

end Sys2Proof.Machine
end

