-- ==== Sys2Proof/Machine/Assembler.lean ====
section
/-! DEFINITION. The text syntax of requests (spec/30_encoding.md R121), its one pseudo-instruction (R122), and the script
answers of a test harness (R123). A line is read as its characters, in the spellings of the spec; blanks may stand between
two spellings. Nothing of State or `step` depends on this file. The points the spec leaves open: notes/assumptions/16.md. -/

namespace Sys2Proof.Machine

/-- `OPEN_DEFAULT`: the `OPEN` of the default configuration (R122, R281). -/
def openDefault : Instr := .openBus ⟨Config.defaultBusName, Config.defaultBusAddress, Config.defaultCentury0⟩

/-- The mnemonic of an operation, letter for letter (R113). -/
def Opcode.mnemonic : Opcode → String
  | .bcdEnc => "BCD_ENC"
  | .bcdDec => "BCD_DEC"
  | .timeEnc => "TIME_ENC"
  | .timeDec => "TIME_DEC"
  | .statusEnc => "STATUS_ENC"
  | .statusDec => "STATUS_DEC"
  | .controlEnc => "CONTROL_ENC"
  | .controlDec => "CONTROL_DEC"
  | .alarmEnc => "ALARM_ENC"
  | .alarmDec => "ALARM_DEC"
  | .tempDec => "TEMP_DEC"
  | .openBus => "OPEN"
  | .getTime => "GET_TIME"
  | .setTime => "SET_TIME"
  | .terminate => "TERMINATE"
  | .getStatus => "GET_STATUS"
  | .setStatus => "SET_STATUS"
  | .getControl => "GET_CONTROL"
  | .setControl => "SET_CONTROL"
  | .getAlarm1 => "GET_ALARM1"
  | .getAlarm2 => "GET_ALARM2"
  | .setAlarm => "SET_ALARM"
  | .getTemperature => "GET_TEMPERATURE"

/-- The operation of a mnemonic. -/
def opcodeNamed (w : List Char) : Option Opcode :=
  (opcodeMap.map OpcodeRow.opcode).find? fun o => (Opcode.mnemonic o).toList == w

/-! ### Reading characters -/

/-- What reads a value off the front of a line, and the rest of the line. -/
abbrev Reads (α : Type) := List Char → Option (α × List Char)

/-- The rest of a line after its leading blanks. -/
def skipBlanks (cs : List Char) : List Char := cs.dropWhile (· == ' ')

/-- The characters of `w`, exactly here. -/
def readExact : List Char → Reads Unit
  | [], cs => some ((), cs)
  | w :: ws, c :: cs => if w = c then readExact ws cs else none
  | _ :: _, [] => none

/-- The spelling `w`, after blanks. -/
def readToken (w : String) : Reads Unit := fun cs => readExact w.toList (skipBlanks cs)

/-- The opening brace of a record. -/
def readOpen : Reads Unit := fun cs => readExact [Char.ofNat 123] (skipBlanks cs)

/-- The closing brace of a record. -/
def readClose : Reads Unit := fun cs => readExact [Char.ofNat 125] (skipBlanks cs)

/-- A decimal digit. -/
def decimalDigit (c : Char) : Option Nat := if '0' ≤ c ∧ c ≤ '9' then some (c.toNat - '0'.toNat) else none

/-- A hexadecimal digit. -/
def hexDigit (c : Char) : Option Nat :=
  if 'A' ≤ c ∧ c ≤ 'F' then some (c.toNat - 'A'.toNat + 10)
  else if 'a' ≤ c ∧ c ≤ 'f' then some (c.toNat - 'a'.toNat + 10)
  else decimalDigit c

/-- The decimal digits here, continuing the number `acc`. -/
def readDigits (acc : Nat) : List Char → Nat × List Char
  | [] => (acc, [])
  | c :: cs =>
    match decimalDigit c with
    | some d => readDigits (10 * acc + d) cs
    | none => (acc, c :: cs)

/-- A decimal natural number, at least one digit, here. -/
def readNat : Reads Nat := fun cs =>
  match cs with
  | [] => none
  | c :: rest => (decimalDigit c).map fun d => readDigits d rest

/-- A decimal integer, optionally signed (R121). -/
def readInt : Reads Int := fun cs =>
  match skipBlanks cs with
  | '-' :: rest => (readNat rest).map fun r => (-(r.1 : Int), r.2)
  | '+' :: rest => (readNat rest).map fun r => ((r.1 : Int), r.2)
  | rest => (readNat rest).map fun r => ((r.1 : Int), r.2)

/-- Exactly `n` decimal digits here, continuing the number `acc`. -/
def readFixed (acc : Nat) : Nat → Reads Int
  | 0, cs => some ((acc : Int), cs)
  | n + 1, c :: cs => (decimalDigit c).bind fun d => readFixed (10 * acc + d) n cs
  | _ + 1, [] => none

/-- `0xHH` (R121). -/
def readByte : Reads Byte := fun cs =>
  match skipBlanks cs with
  | '0' :: 'x' :: a :: b :: rest => do
    let hi ← hexDigit a
    let lo ← hexDigit b
    return (BitVec.ofNat 8 (16 * hi + lo), rest)
  | _ => none

/-- The bytes after a first one, up to the closing bracket; `fuel` bounds their number. -/
def readByteTail : Nat → Reads (List Byte)
  | 0, _ => none
  | fuel + 1, cs =>
    match readToken "]" cs with
    | some (_, rest) => some ([], rest)
    | none => do
      let (_, cs) ← readToken "," cs
      let (b, cs) ← readByte cs
      let (bs, cs) ← readByteTail fuel cs
      return (b :: bs, cs)

/-- `[0xHH, 0xHH, ...]` (R121). -/
def readBytes : Reads (List Byte) := fun cs => do
  let (_, cs) ← readToken "[" cs
  match readToken "]" cs with
  | some (_, rest) => return ([], rest)
  | none =>
    let (b, cs) ← readByte cs
    let (bs, cs) ← readByteTail (cs.length + 1) cs
    return (b :: bs, cs)

/-- `key=` and a value. -/
def readField {α : Type} (key : String) (value : Reads α) : Reads α := fun cs => do
  let (_, cs) ← readToken key cs
  let (_, cs) ← readToken "=" cs
  value cs

/-- `, key=` and a value. -/
def readNext {α : Type} (key : String) (value : Reads α) : Reads α := fun cs => do
  let (_, cs) ← readToken "," cs
  readField key value cs

/-- A bit, `0` or `1`. -/
def readBit : Reads Bit := fun cs =>
  match skipBlanks cs with
  | '0' :: rest => some (0, rest)
  | '1' :: rest => some (1, rest)
  | _ => none

/-- A two-bit number, `0` to `3`. -/
def readUInt2 : Reads UInt2 := fun cs =>
  match skipBlanks cs with
  | '0' :: rest => some (0, rest)
  | '1' :: rest => some (1, rest)
  | '2' :: rest => some (2, rest)
  | '3' :: rest => some (3, rest)
  | _ => none

/-! ### Operands (R121) -/

/-- `YYYY-MM-DD/W hh:mm:ss`, `W` a day of week 1–7 or `-` for absent. DESIGN CHOICE, safe: R121 gives the record form for
out-of-range values and does not say whether the short form may carry one; any digits are read here, so a month of 13 or
an hour of 24 in this form is a request with that value (notes/assumptions/16.md). -/
def readTimeShort : Reads CalendarTime := fun cs => do
  let (year, cs) ← readFixed 0 4 (skipBlanks cs)
  let (_, cs) ← readExact ['-'] cs
  let (month, cs) ← readFixed 0 2 cs
  let (_, cs) ← readExact ['-'] cs
  let (day, cs) ← readFixed 0 2 cs
  let (_, cs) ← readExact ['/'] cs
  let (dow, cs) ← match cs with
    | '-' :: rest => some (none, rest)
    | _ => do
      let (w, cs) ← readFixed 0 1 cs
      if 1 ≤ w ∧ w ≤ 7 then some (some w, cs) else none
  let (_, cs) ← readExact [' '] cs
  let (hour, cs) ← readFixed 0 2 (skipBlanks cs)
  let (_, cs) ← readExact [':'] cs
  let (minute, cs) ← readFixed 0 2 cs
  let (_, cs) ← readExact [':'] cs
  let (second, cs) ← readFixed 0 2 cs
  return (⟨year, month, day, dow, hour, minute, second⟩, cs)

/-- The day of week of a record: `-` alone is absent, a number any integer. -/
def readDow : Reads (Option Int) := fun cs =>
  match readInt cs with
  | some (w, rest) => some (some w, rest)
  | none => (readToken "-" cs).map fun r => (none, r.2)

/-- The record form of a calendar time, for out-of-range values. -/
def readTimeRecord : Reads CalendarTime := fun cs => do
  let (_, cs) ← readOpen cs
  let (year, cs) ← readField "year" readInt cs
  let (month, cs) ← readNext "month" readInt cs
  let (day, cs) ← readNext "day" readInt cs
  let (dow, cs) ← readNext "dow" readDow cs
  let (hour, cs) ← readNext "hour" readInt cs
  let (minute, cs) ← readNext "minute" readInt cs
  let (second, cs) ← readNext "second" readInt cs
  let (_, cs) ← readClose cs
  return (⟨year, month, day, dow, hour, minute, second⟩, cs)

/-- A calendar time in either form. -/
def readTime : Reads CalendarTime := fun cs =>
  match readTimeShort cs with
  | some r => some r
  | none => readTimeRecord cs

/-- The status flags record. -/
def readStatusFlags : Reads StatusFlags := fun cs => do
  let (_, cs) ← readOpen cs
  let (osf, cs) ← readField "osf" readBit cs
  let (a1f, cs) ← readNext "a1f" readBit cs
  let (a2f, cs) ← readNext "a2f" readBit cs
  let (bsy, cs) ← readNext "bsy" readBit cs
  let (en32khz, cs) ← readNext "en32khz" readBit cs
  let (_, cs) ← readClose cs
  return (⟨osf, a1f, a2f, bsy, en32khz⟩, cs)

/-- The control flags record. -/
def readControlFlags : Reads ControlFlags := fun cs => do
  let (_, cs) ← readOpen cs
  let (eosc, cs) ← readField "eosc" readBit cs
  let (bbsqw, cs) ← readNext "bbsqw" readBit cs
  let (conv, cs) ← readNext "conv" readBit cs
  let (rs, cs) ← readNext "rs" readUInt2 cs
  let (intcn, cs) ← readNext "intcn" readBit cs
  let (a2ie, cs) ← readNext "a2ie" readBit cs
  let (a1ie, cs) ← readNext "a1ie" readBit cs
  let (_, cs) ← readClose cs
  return (⟨a1ie, a2ie, intcn, rs, conv, bbsqw, eosc⟩, cs)

/-- `(DayOfMonth)` or `(DayOfWeek)` (R42). -/
def readSel : Reads DaySel := fun cs =>
  match readToken "(DayOfMonth)" cs with
  | some (_, rest) => some (.dayOfMonth, rest)
  | none => (readToken "(DayOfWeek)" cs).map fun r => (.dayOfWeek, r.2)

/-- A constructor name that takes no argument. -/
def readName {α : Type} (name : String) (value : α) : Reads α := fun cs => (readToken name cs).map fun r => (value, r.2)

/-- An alarm 1 mode by its constructor of R42. -/
def readA1Mode : Reads A1Mode := fun cs =>
  match readToken "MatchDHMS" cs with
  | some (_, rest) => (readSel rest).map fun r => (.matchDHMS r.1, r.2)
  | none =>
    (readName "EverySecond" A1Mode.everySecond cs).or
      ((readName "MatchS" A1Mode.matchS cs).or
        ((readName "MatchMS" A1Mode.matchMS cs).or (readName "MatchHMS" A1Mode.matchHMS cs)))

/-- An alarm 2 mode by its constructor of R42. -/
def readA2Mode : Reads A2Mode := fun cs =>
  match readToken "MatchDHM" cs with
  | some (_, rest) => (readSel rest).map fun r => (.matchDHM r.1, r.2)
  | none =>
    (readName "EveryMinute" A2Mode.everyMinute cs).or
      ((readName "MatchHM" A2Mode.matchHM cs).or (readName "MatchM" A2Mode.matchM cs))

/-- `A1` and its record. -/
def readAlarm1 : Reads AlarmSpec := fun cs => do
  let (_, cs) ← readToken "A1" cs
  let (_, cs) ← readOpen cs
  let (sec, cs) ← readField "s" readInt cs
  let (min, cs) ← readNext "m" readInt cs
  let (hour, cs) ← readNext "h" readInt cs
  let (day, cs) ← readNext "d" readInt cs
  let (mode, cs) ← readNext "mode" readA1Mode cs
  let (_, cs) ← readClose cs
  return (.alarm1 sec min hour day mode, cs)

/-- `A2` and its record. -/
def readAlarm2 : Reads AlarmSpec := fun cs => do
  let (_, cs) ← readToken "A2" cs
  let (_, cs) ← readOpen cs
  let (min, cs) ← readField "m" readInt cs
  let (hour, cs) ← readNext "h" readInt cs
  let (day, cs) ← readNext "d" readInt cs
  let (mode, cs) ← readNext "mode" readA2Mode cs
  let (_, cs) ← readClose cs
  return (.alarm2 min hour day mode, cs)

/-- A quoted name, up to the next quote. -/
def readQuoted : Reads String := fun cs =>
  match skipBlanks cs with
  | '"' :: rest =>
    match rest.dropWhile (· != '"') with
    | _ :: after => some (String.ofList (rest.takeWhile (· != '"')), after)
    | [] => none
  | _ => none

/-- The configuration record. -/
def readConfig : Reads OpenConfig := fun cs => do
  let (_, cs) ← readOpen cs
  let (name, cs) ← readField "bus_name" readQuoted cs
  let (address, cs) ← readNext "bus_address" readByte cs
  let (c0, cs) ← readNext "century_0" readInt cs
  let (_, cs) ← readClose cs
  return (⟨name, ⟨address.toNat⟩, c0⟩, cs)

/-- The operand of a format (R112, R121). -/
def readOperand (f : Format) : Reads Operand := fun cs =>
  match f with
  | .f0 => some (.f0, cs)
  | .fi => (readInt cs).map fun r => (.fi r.1, r.2)
  | .fb => (readByte cs).map fun r => (.fb r.1, r.2)
  | .fs => (readBytes cs).map fun r => (.fs r.1, r.2)
  | .fte => do
    let (t, cs) ← readTime cs
    let (c0, cs) ← readField "c0" readInt cs
    return (.fte t c0, cs)
  | .ftd => do
    let (s, cs) ← readBytes cs
    let (c0, cs) ← readField "c0" readInt cs
    return (.ftd s c0, cs)
  | .ft => (readTime cs).map fun r => (.ft r.1, r.2)
  | .fsf => (readStatusFlags cs).map fun r => (.fsf r.1, r.2)
  | .fcf => (readControlFlags cs).map fun r => (.fcf r.1, r.2)
  | .fa => ((readAlarm1 cs).or (readAlarm2 cs)).map fun r => (.fa r.1, r.2)
  | .fcfg => (readConfig cs).map fun r => (.fcfg r.1, r.2)

/-! ### Lines -/

/-- What a line of a script is. -/
inductive Line where
  | blank
  | request (r : Request)
  | answer (d : Draw)
  deriving DecidableEq, Repr

/-- A line without its comment: `;` starts one, but not inside a quoted name (R121). -/
def stripComment (quoted : Bool) : List Char → List Char
  | [] => []
  | c :: cs =>
    if c = ';' ∧ quoted = false then [] else c :: stripComment (if c = '"' then !quoted else quoted) cs

/-- A request line: the mnemonic, then its operand, then nothing more (R121, R122). -/
def readRequest (cs : List Char) : Option Request :=
  let line := skipBlanks cs
  let word := line.takeWhile (· != ' ')
  let rest := line.dropWhile (· != ' ')
  if word = "OPEN_DEFAULT".toList then if skipBlanks rest = [] then some (encode openDefault) else none
  else do
    let o ← opcodeNamed word
    let (x, after) ← readOperand o.format rest
    if skipBlanks after = [] then some ⟨o.byte, x⟩ else none

/-- A script answer, after `bus:` (R123). -/
def readAnswer (cs : List Char) : Option Draw :=
  match readToken "err" cs with
  | some (_, rest) => do
    let (_, rest) ← readToken "E" rest
    let (n, after) ← readNat rest
    if skipBlanks after = [] then some (.err ⟨n⟩) else none
  | none => do
    let (_, rest) ← readToken "ok" cs
    match readField "handle" (readToken "H") rest with
    | some (_, rest) =>
      let (n, after) ← readNat rest
      if skipBlanks after = [] then some (.ok ⟨n⟩ []) else none
    | none =>
      match readBytes rest with
      | some (bs, after) => if skipBlanks after = [] then some (.ok ⟨0⟩ bs) else none
      | none => if skipBlanks rest = [] then some (.ok ⟨0⟩ []) else none

/-- A line of a script; none where it has none of the spellings. -/
def readLine (text : String) : Option Line :=
  let cs := stripComment false text.toList
  if skipBlanks cs = [] then some .blank
  else
    match readToken "bus:" cs with
    | some (_, rest) => (readAnswer rest).map .answer
    | none => (readRequest cs).map .request

/-- Put a script's lines on the ports: requests to the request port, answers to the transport port, each in order, so that
each answer answers the oldest unanswered transaction (R123). -/
def State.load (s : State) (script : List Line) : State :=
  { s with
    requests := s.requests ++ script.filterMap fun l => match l with
      | .request r => some r
      | .answer _ => none
      | .blank => none
    answers := s.answers ++ script.filterMap fun l => match l with
      | .answer d => some d
      | .request _ => none
      | .blank => none }

end Sys2Proof.Machine
end

