-- ==== Sys2Proof/Machine/RefChip.lean ====
section
/-! DEFINITION. The reference chip (spec/20_memory.md R97): a 256-byte register file with no side effects that answers the
block's transactions, for test programs only. It is no part of State, and no claim about the block rests on it
(R61, R96, D27; notes/assumptions/15.md). -/

namespace Sys2Proof.Machine

/-- The register file, one canonical list of cells: offsets strictly rising, no cell equal to what an unlisted offset
reads as. -/
abbrev Memory := List Host.Cell

/-- What an unlisted offset reads as: "every other byte is 0x00" (spec/95_test_vectors.md Part 3). -/
def Memory.unlisted : Byte := 0x00

/-- The number of register offsets (R97). -/
def Memory.size : Nat := 256

/-- Every offset of the list is at least `lo` and below the size, they rise strictly, and no byte is the unlisted one. -/
def Memory.wfFrom (lo : Nat) : Memory → Bool
  | [] => true
  | (a, b) :: rest => lo ≤ a && a < Memory.size && b != Memory.unlisted && Memory.wfFrom (a + 1) rest

/-- The canonical form. -/
def Memory.wf (m : Memory) : Bool := Memory.wfFrom 0 m

/-- `regs[a]`. -/
def Memory.readByte (a : Nat) : Memory → Byte
  | [] => Memory.unlisted
  | (k, b) :: rest => if k = a then b else Memory.readByte a rest

/-- A cell in front of a list, left out where its byte is the unlisted one. -/
def Memory.consCell (a : Nat) (b : Byte) (m : Memory) : Memory := if b = Memory.unlisted then m else (a, b) :: m

/-- The list with the cell at `a` set, for offsets inside the file. -/
def Memory.insertCell (a : Nat) (b : Byte) : Memory → Memory
  | [] => Memory.consCell a b []
  | (k, c) :: rest =>
    if a < k then Memory.consCell a b ((k, c) :: rest)
    else if a = k then Memory.consCell a b rest
    else (k, c) :: Memory.insertCell a b rest

/-- `regs[a] <- b`. An offset past the file is no register: nothing is written (notes/assumptions/15.md). -/
def Memory.writeByte (m : Memory) (a : Nat) (b : Byte) : Memory :=
  if a < Memory.size then Memory.insertCell a b m else m

/-- `[regs[off], ..., regs[off+n−1]]`. -/
def Memory.readBytes (m : Memory) (off : Nat) : Nat → List Byte
  | 0 => []
  | n + 1 => m.readByte off :: Memory.readBytes m (off + 1) n

/-- `regs[off+i] <- d[i]` for each `i`. -/
def Memory.writeBytes (m : Memory) (off : Nat) : List Byte → Memory
  | [] => m
  | b :: rest => Memory.writeBytes (m.writeByte off b) (off + 1) rest

/-- The block with a reference chip behind its transport: the fixed handle `h0` an open answers, and for each transaction
in turn the failure the test script injects, if any. -/
structure Rig where
  block : State
  regs : Memory
  h0 : BusHandle
  script : List (Option TransportErr)
  deriving DecidableEq, Repr

/-- The register file after the chip has served a transaction (R97). -/
def Memory.serve (m : Memory) (t : Txn) : Memory :=
  match t with
  | .busWrite _ _ off data => m.writeBytes off.toNat data
  | .busOpen _ => m
  | .busRead _ _ _ _ => m
  | .busRelease _ => m

/-- The chip's answer to a transaction (R97). -/
def Memory.answerTo (m : Memory) (h0 : BusHandle) (t : Txn) : Draw :=
  match t with
  | .busOpen _ => .ok h0 []
  | .busRead _ _ off n => .ok h0 (m.readBytes off.toNat n)
  | .busWrite _ _ _ _ => .ok h0 []
  | .busRelease _ => .ok h0 []

/-- Answer the transaction in flight: an injected failure leaves the registers unchanged (R97, spec/95_test_vectors.md
Part 3). -/
def Rig.answerTxn (g : Rig) (t : Txn) : Rig :=
  match g.script with
  | some e :: rest => { g with block := { g.block with answers := [.err e] }, script := rest }
  | none :: rest =>
    { g with
      block := { g.block with answers := [g.regs.answerTo g.h0 t] }
      regs := g.regs.serve t
      script := rest }
  | [] =>
    { g with
      block := { g.block with answers := [g.regs.answerTo g.h0 t] }
      regs := g.regs.serve t }

/-- One step of the rig: where a transaction is in flight the chip answers it, and the block steps. -/
def Rig.step (g : Rig) : Host.Outcome Rig Fault Refusal :=
  let g1 := match g.block.awaited with
    | some t => g.answerTxn t
    | none => g
  match Sys2Proof.Machine.step g1.block with
  | .next s => .next { g1 with block := s }
  | .fault f => .fault f
  | .refused r => .refused r

/-- `k` steps of the rig. -/
def Rig.run : Nat → Rig → Host.Outcome Rig Fault Refusal
  | 0, g => .next g
  | k + 1, g =>
    match g.step with
    | .next g' => Rig.run k g'
    | .fault f => .fault f
    | .refused r => .refused r

end Sys2Proof.Machine
end

