-- ==== Sys2Proof/Safety.lean ====
section
/-! DEFINITION. The vocabulary of claims: the invariant every step keeps, the transactions the block may issue, when a
request is legal, and what the end of a run is. -/

namespace Sys2Proof.Machine

/-- In `Closed` the session registers hold no value, in `Open` they hold one (R32, R36: never partially initialized). -/
def State.SessionOk (s : State) : Prop := s.mode = .opened ↔ s.session.isSome = true

/-- The request an accessor read latches. -/
def AuxRead.request : AuxRead → Instr
  | .status => .getStatus
  | .control => .getControl
  | .alarm1 => .getAlarm1
  | .alarm2 => .getAlarm2
  | .temperature => .getTemperature

/-- Whether a request is one that an accessor write of this register latches. -/
def AuxWrite.Latches (r : AuxWrite) (i : Instr) : Prop :=
  match r with
  | .status => ∃ f, i = .setStatus f
  | .control => ∃ f, i = .setControl f
  | .alarm1 => ∃ sec min hour day mode, i = .setAlarm (.alarm1 sec min hour day mode)
  | .alarm2 => ∃ min hour day mode, i = .setAlarm (.alarm2 min hour day mode)

/-- What the scratch registers hold in each phase (R33, R34): nothing in `Idle`, and while a request is in flight the
latched request and what its earlier steps left. -/
def State.PhaseOk (s : State) : Prop :=
  match s.phase with
  | .idle => s.req = none ∧ s.stRaw = none ∧ s.img = none ∧ s.stWb = none
  | .waitOpen => s.mode = .closed ∧ (∃ cfg, s.req = some (.openBus cfg)) ∧ s.stRaw = none ∧ s.img = none ∧ s.stWb = none
  | .waitTimeRead => s.mode = .opened ∧ s.req = some .getTime ∧ s.stRaw = none ∧ s.img = none ∧ s.stWb = none
  | .stWaitStatusRead =>
    s.mode = .opened ∧ (∃ t, s.req = some (.setTime t)) ∧ s.stRaw = none ∧ s.img = none ∧ s.stWb = none
  | .stWaitDateWrite =>
    s.mode = .opened ∧ s.stWb = none ∧
      ∃ t b img d, s.req = some (.setTime t) ∧ s.stRaw = some b ∧ s.img = some img ∧ s.session = some d ∧
        timeEnc t d.century0 = .ok img
  | .stWaitStatusWrite =>
    s.mode = .opened ∧
      ∃ t b img d, s.req = some (.setTime t) ∧ s.stRaw = some b ∧ s.img = some img ∧ s.session = some d ∧
        timeEnc t d.century0 = .ok img ∧ s.stWb = some (b &&& 0x0F)
  | .auxWaitRead r => s.mode = .opened ∧ s.req = some r.request ∧ s.stRaw = none ∧ s.img = none ∧ s.stWb = none
  | .auxWaitWrite r =>
    s.mode = .opened ∧ (∃ i, s.req = some i ∧ r.Latches i) ∧ s.stRaw = none ∧ s.img = none ∧ s.stWb = none

/-- While a request is in flight its transaction is the last one issued, and it is the one the phase and the registers
name (R33, R98). -/
def State.InFlightOk (s : State) : Prop :=
  s.phase ≠ .idle → ∃ t, s.awaited = some t ∧ s.issued.getLast? = some t

/-- A transaction of R82: an open, a read of a whole register of the map, a write of a whole register of the map other
than temperature, or a release. -/
def Txn.Legal : Txn → Prop
  | .busOpen _ => True
  | .busRead _ _ off n => ∃ r : ChipReg, off = r.offset ∧ n = r.length
  | .busWrite _ _ off data => ∃ r : ChipReg, r ≠ .temperature ∧ off = r.offset ∧ data.length = r.length
  | .busRelease _ => True

/-- Nothing but the transactions of R82 has ever been issued. -/
def State.IssuedOk (s : State) : Prop := ∀ t ∈ s.issued, t.Legal

/-- The invariant of the block. -/
structure State.Inv (s : State) : Prop where
  session : s.SessionOk
  phase : s.PhaseOk
  inFlight : s.InFlightOk
  issued : s.IssuedOk

/-- The end of a run (R382): idle, no transaction in flight, every response given, and no further request. -/
def State.Ended (s : State) : Prop := s.phase = .idle ∧ s.requests = []

/-- The block's registers of two states agree: all but the ports. -/
def State.SameRegisters (s t : State) : Prop :=
  t.mode = s.mode ∧ t.session = s.session ∧ t.phase = s.phase ∧ t.req = s.req ∧ t.stRaw = s.stRaw ∧
    t.img = s.img ∧ t.stWb = s.stWb

/-- The input ports of two states agree. -/
def State.SameInputs (s t : State) : Prop := t.requests = s.requests ∧ t.answers = s.answers

/-- No scratch register holds a value (R34). -/
def State.ScratchEmpty (s : State) : Prop := s.req = none ∧ s.stRaw = none ∧ s.img = none ∧ s.stWb = none

end Sys2Proof.Machine

namespace Sys2Proof

/-- A codec request (`S` = 0, R111). -/
def Instr.isCodec (i : Instr) : Bool := i.opcode.fields.1 == 0

/-- Whether a request is legal in a mode (R115, R351). -/
def Instr.legalIn (i : Instr) (m : Machine.Mode) : Bool :=
  i.isCodec || (if i.opcode = .openBus then m == Machine.Mode.closed else m == Machine.Mode.opened)

end Sys2Proof
end

