-- ==== Sys2Proof/Certificates/Slice0/Obligations.lean ====
section
/-! DEFINITION. The statements for the provers. Each names the rule it formalises. The arithmetic of the codecs is written
here a second time, in integers and by the tables of spec/, so that a statement about a codec does not repeat its
definition. -/

namespace Sys2Proof.Claims

open Sys2Proof.Machine

/-! ### Shapes of a next state -/

/-- `s` with events put out and nothing else changed. -/
def put (s : State) (es : List Event) : State := { s with events := s.events ++ es }

/-- `s` after a session request was accepted: latched, in phase `p`, its transaction issued, nothing else changed. -/
def waiting (s : State) (i : Instr) (p : Phase) (t : Txn) : State :=
  { s with phase := p, req := some i, events := s.events ++ [.issue t] }

/-- `s` with the transport's answers as given. -/
def given (s : State) (answers : List Draw) : State := { s with answers := answers }

/-- `s` after a session request was completed: `Idle`, no scratch register with a value, the answers left, the events put
out since `s`, nothing else changed. -/
def done (s : State) (rest : List Draw) (es : List Event) : State :=
  { s with phase := .idle, req := none, stRaw := none, img := none, stWb := none, answers := rest,
           events := s.events ++ es }

/-- The events of a request that ends in an error: one log event, then the response (R312). -/
def failing (op : Opcode) (e : Error) : List Event := [.log ⟨op, e⟩, .respond (.err e)]

/-- The events of a request that ends with a codec's result. -/
def ending (op : Opcode) (x : Except Error Value) : List Event :=
  match x with
  | .ok v => [.respond (.ok v)]
  | .error e => failing op e

/-- The log event of a failed GET_TIME, there only where the parameter says so (R312). -/
def maybeLog (e : Error) : List Event := if Config.logGetTimeFailure then [.log ⟨.getTime, e⟩] else []

/-! ### The BCD and time arithmetic of the spec -/

/-- `bcd_enc` in its arithmetic form, `v + 6 × (v div 10)` (R141). -/
def bcdInt (v : Int) : Int := v + 6 * (v / 10)

/-- A calendar time valid for a century base (R37). -/
def Valid (t : CalendarTime) (c0 : Int) : Prop :=
  (0 ≤ t.second ∧ t.second ≤ 59) ∧ (0 ≤ t.minute ∧ t.minute ≤ 59) ∧ (0 ≤ t.hour ∧ t.hour ≤ 23) ∧
    (∀ w, t.dow = some w → 1 ≤ w ∧ w ≤ 7) ∧ (1 ≤ t.day ∧ t.day ≤ 31) ∧ (1 ≤ t.month ∧ t.month ≤ 12) ∧
    (c0 ≤ t.year ∧ t.year ≤ c0 + 199)

/-- The first field out of its range in the check order of R161, if any. -/
def firstBadTimeField (t : CalendarTime) (c0 : Int) : Option FieldName :=
  if t.second < 0 ∨ 59 < t.second then some .second
  else if t.minute < 0 ∨ 59 < t.minute then some .minute
  else if t.hour < 0 ∨ 23 < t.hour then some .hour
  else if t.dow.any (fun w => w < 1 || 7 < w) then some .dow
  else if t.day < 1 ∨ 31 < t.day then some .day
  else if t.month < 1 ∨ 12 < t.month then some .month
  else if t.year < c0 ∨ c0 + 199 < t.year then some .year
  else none

/-- The time image in integers: century bit 1 from `c0 + 100` on, the 2-digit year counted from the window's base (R160,
R162). -/
def timeImageInts (t : CalendarTime) (c0 : Int) : List Int :=
  [bcdInt t.second, bcdInt t.minute, bcdInt t.hour, t.dow.getD 0, bcdInt t.day,
   bcdInt t.month + (if c0 + 100 ≤ t.year then 128 else 0),
   bcdInt (if c0 + 100 ≤ t.year then t.year - (c0 + 100) else t.year - c0)]

/-- Bytes of integers. -/
def bytesOf (l : List Int) : List Byte := l.map (BitVec.ofInt 8)

/-- One row of the tables `RES`, `VAL`, `LO`, `HI` of R166, as numbers. -/
structure FieldSpec where
  res : Nat
  val : Nat
  lo : Int
  hi : Int

/-- The number a value field's BCD digits stand for. -/
def digits (n : Nat) : Int := 10 * (n / 16) + n % 16

/-- Whether a byte passes its row: no reserved bit, both nibbles of the value field digits, the value in range. -/
def FieldSpec.accepts (f : FieldSpec) (b : Byte) : Bool :=
  (b.toNat &&& f.res == 0) && decide ((b.toNat &&& f.val) / 16 ≤ 9) && decide ((b.toNat &&& f.val) % 16 ≤ 9) &&
    decide (f.lo ≤ digits (b.toNat &&& f.val)) && decide (digits (b.toNat &&& f.val) ≤ f.hi)

/-- The value of a byte's field. -/
def FieldSpec.value (f : FieldSpec) (b : Byte) : Int := digits (b.toNat &&& f.val)

/-- The seven rows of R166, in byte order. -/
def timeFields : List FieldSpec :=
  [⟨0x80, 0x7F, 0, 59⟩, ⟨0x80, 0x7F, 0, 59⟩, ⟨0xC0, 0x3F, 0, 23⟩, ⟨0xF8, 0x07, 0, 7⟩, ⟨0xC0, 0x3F, 1, 31⟩,
   ⟨0x60, 0x1F, 1, 12⟩, ⟨0x00, 0xFF, 0, 99⟩]

/-- The index of the first byte its row does not accept, if any (R166, R345(c)). -/
def firstBadByte : List FieldSpec → List Byte → Nat → Option Nat
  | f :: fs, b :: bs, i => if f.accepts b then firstBadByte fs bs (i + 1) else some i
  | _, _, _ => none

/-- What TIME_DEC responds (R166, R167, R169). -/
def timeDecResponse (bs : List Byte) (c0 : Int) : Response :=
  if bs.length ≠ 7 then .err (.format .time (min bs.length 7))
  else
    match firstBadByte timeFields bs 0 with
    | some i => .err (.format .time i)
    | none =>
      let v := fun i : Nat => (timeFields.getD i ⟨0, 0, 0, 0⟩).value (bs.getD i 0)
      .ok (.time {
        second := v 0, minute := v 1, hour := v 2, dow := if v 3 = 0 then none else some (v 3), day := v 4,
        month := v 5, year := (if (bs.getD 5 0).toNat < 128 then c0 else c0 + 100) + v 6 })

/-! ### The alarm tables of the spec -/

/-- The participation bits of an alarm 1 mode in byte order M1, M2, M3, M4, and DY (R50, R230). -/
def a1Bits : A1Mode → List Int × Int
  | .everySecond => ([1, 1, 1, 1], 0)
  | .matchS => ([0, 1, 1, 1], 0)
  | .matchMS => ([0, 0, 1, 1], 0)
  | .matchHMS => ([0, 0, 0, 1], 0)
  | .matchDHMS .dayOfMonth => ([0, 0, 0, 0], 0)
  | .matchDHMS .dayOfWeek => ([0, 0, 0, 0], 1)

/-- The participation bits of an alarm 2 mode in byte order M2, M3, M4, and DY (R51, R230). -/
def a2Bits : A2Mode → List Int × Int
  | .everyMinute => ([1, 1, 1], 0)
  | .matchM => ([0, 1, 1], 0)
  | .matchHM => ([0, 0, 1], 0)
  | .matchDHM .dayOfMonth => ([0, 0, 0], 0)
  | .matchDHM .dayOfWeek => ([0, 0, 0], 1)

/-- The first field of an alarm spec out of its range in the order of R230, if any (R231). -/
def firstBadAlarmField : AlarmSpec → Option FieldName
  | .alarm1 sec min hour day mode =>
    if sec < 0 ∨ 59 < sec then some .second
    else if min < 0 ∨ 59 < min then some .minute
    else if hour < 0 ∨ 23 < hour then some .hour
    else if day < 1 ∨ (if (a1Bits mode).2 = 1 then 7 else 31) < day then some .dayOrDate
    else none
  | .alarm2 min hour day mode =>
    if min < 0 ∨ 59 < min then some .minute
    else if hour < 0 ∨ 23 < hour then some .hour
    else if day < 1 ∨ (if (a2Bits mode).2 = 1 then 7 else 31) < day then some .dayOrDate
    else none

/-- The alarm image in integers (R49, R230). -/
def alarmImageInts : AlarmSpec → List Int
  | .alarm1 sec min hour day mode =>
    let m := fun i : Nat => 128 * (a1Bits mode).1.getD i 0
    [m 0 + bcdInt sec, m 1 + bcdInt min, m 2 + bcdInt hour, m 3 + 64 * (a1Bits mode).2 + bcdInt day]
  | .alarm2 min hour day mode =>
    let m := fun i : Nat => 128 * (a2Bits mode).1.getD i 0
    [m 0 + bcdInt min, m 1 + bcdInt hour, m 2 + 64 * (a2Bits mode).2 + bcdInt day]

/-- Bit `k` of a byte, as a number. -/
def bitNat (b : Byte) (k : Nat) : Nat := b.toNat / 2 ^ k % 2

/-- The rows of alarm 1's four bytes (R49, R241); the day row by the byte's own DY bit. -/
def alarm1Fields (dayByte : Byte) : List FieldSpec :=
  [⟨0x00, 0x7F, 0, 59⟩, ⟨0x00, 0x7F, 0, 59⟩, ⟨0x40, 0x3F, 0, 23⟩,
   ⟨0x00, 0x3F, 1, if bitNat dayByte 6 = 1 then 7 else 31⟩]

/-- The index of R244: the smallest `j` with `M[j−1] = 1` and `M[j] = 0`, if the masks are no `0…0 1…1`. -/
def firstDrop (m : List Nat) : Option Nat :=
  (List.range m.length).find? fun j => 1 ≤ j && m.getD (j - 1) 0 == 1 && m.getD j 0 == 0

/-- The day selector of a DY bit. -/
def selOf (dy : Nat) : DaySel := if dy = 1 then .dayOfWeek else .dayOfMonth

/-- Alarm 1's mode by how many of its bytes do not take part (R50). -/
def a1ModeBy (dontCare : Nat) (dy : Nat) : A1Mode :=
  if dontCare = 4 then .everySecond else if dontCare = 3 then .matchS else if dontCare = 2 then .matchMS
  else if dontCare = 1 then .matchHMS else .matchDHMS (selOf dy)

/-- Alarm 2's mode by how many of its bytes do not take part (R51). -/
def a2ModeBy (dontCare : Nat) (dy : Nat) : A2Mode :=
  if dontCare = 3 then .everyMinute else if dontCare = 2 then .matchM else if dontCare = 1 then .matchHM
  else .matchDHM (selOf dy)

/-- What a decode of alarm 1 gives (R241, R244, R245). -/
def alarm1DecResult (bs : List Byte) : Except Error AlarmSpec :=
  if bs.length ≠ 4 then .error (.format .alarm1 (min bs.length 4))
  else
    let fs := alarm1Fields (bs.getD 3 0)
    let m := bs.map fun b => bitNat b 7
    let v := fun i : Nat => (fs.getD i ⟨0, 0, 0, 0⟩).value (bs.getD i 0)
    match firstBadByte fs bs 0 with
    | some i => .error (.format .alarm1 i)
    | none =>
      match firstDrop m with
      | some j => .error (.format .alarm1 j)
      | none => .ok (.alarm1 (v 0) (v 1) (v 2) (v 3) (a1ModeBy m.sum (bitNat (bs.getD 3 0) 6)))

/-- What a decode of alarm 2 gives (R242, R244, R245): alarm 1's rows without the seconds. -/
def alarm2DecResult (bs : List Byte) : Except Error AlarmSpec :=
  if bs.length ≠ 3 then .error (.format .alarm2 (min bs.length 3))
  else
    let fs := (alarm1Fields (bs.getD 2 0)).drop 1
    let m := bs.map fun b => bitNat b 7
    let v := fun i : Nat => (fs.getD i ⟨0, 0, 0, 0⟩).value (bs.getD i 0)
    match firstBadByte fs bs 0 with
    | some i => .error (.format .alarm2 i)
    | none =>
      match firstDrop m with
      | some j => .error (.format .alarm2 j)
      | none => .ok (.alarm2 (v 0) (v 1) (v 2) (a2ModeBy m.sum (bitNat (bs.getD 2 0) 6)))

/-- What ALARM_DEC gives: the length selects the alarm (R240). -/
def alarmDecResult (bs : List Byte) : Except Error AlarmSpec :=
  if bs.length = 4 then alarm1DecResult bs
  else if bs.length = 3 then alarm2DecResult bs
  else .error (.format .alarm (min bs.length 4))

/-- Whether an alarm spec's mode is a day mode, one that carries a selector (R42). -/
def isDayMode : AlarmSpec → Bool
  | .alarm1 _ _ _ _ (.matchDHMS _) => true
  | .alarm1 _ _ _ _ _ => false
  | .alarm2 _ _ _ (.matchDHM _) => true
  | .alarm2 _ _ _ _ => false

/-- An alarm image with bit 6 of its last byte, the day/date byte, cleared (R251). -/
def clearDy (bs : List Byte) : List Byte := bs.dropLast ++ [bs.getLastD 0 &&& 0xBF]

/-! ### Encodings and legality, as each operation's rule gives them -/

/-- The request of `i` is opcode byte `op` with operand `x`, and that request decodes to `i` ("Operands", "Encoding"). -/
def Encodes (i : Instr) (op : Byte) (x : Operand) : Prop := encode i = ⟨op, x⟩ ∧ decode ⟨op, x⟩ = .instr i

/-- Outside mode `m` the request is refused ("Legal when"). -/
def LegalOnlyIn (m : Mode) (i : Instr) : Prop :=
  ∀ s : State, s.mode ≠ m → exec i s = .refused (.wrongMode i.opcode s.mode)

/-- The block is idle, and the request at the head of its port has no meaning: its opcode byte is unassigned (R117), its
operand is not of the type the opcode fixes (R118), or it is a session request in the wrong mode (R351). -/
def AtRequestWithoutMeaning (s : State) : Prop :=
  s.phase = .idle ∧ ∃ r rest, s.requests = r :: rest ∧
    (r.opcodeAssigned = false ∨ (∃ o, opcodeOf r.op = some o ∧ r.operand.fits o = false) ∨
      ∃ i, decode r = .instr i ∧ i.legalIn s.mode = false)

/-- The most transport answers a request takes before it completes (R313): none for a codec request (R115) and TERMINATE
(R300), 3 for SET_TIME, 1 for every other. -/
def mostAnswers (i : Instr) : Nat :=
  if i.isCodec = true ∨ i.opcode = .terminate then 0 else if i.opcode = .setTime then 3 else 1

/-! ### The accessors, one shape for reads and one for writes -/

/-- What an accessor read does: its opcode byte, refused in Closed; in Open it issues one read of its register, and
completes on the answer with its decoder's result or the transport's error, session and mode unchanged. -/
def ReadsThrough (i : Instr) (word : Byte) (p : AuxRead) (op : Opcode) (off : Byte) (n : Nat)
    (dec : List Byte → Except Error Value) : Prop :=
  Encodes i word .f0 ∧ LegalOnlyIn .opened i ∧
  ∀ (s : State) (d : DriverSession), s.mode = .opened → s.session = some d →
    let t := Txn.busRead d.busHandle d.busAddress off n
    exec i s = .next (waiting s i (.auxWaitRead p) t) ∧
      ∀ rest : List Draw,
        (∀ h bs, step (given (waiting s i (.auxWaitRead p) t) (.ok h bs :: rest)) =
          .next (done s rest (.issue t :: ending op (dec bs)))) ∧
        (∀ e, step (given (waiting s i (.auxWaitRead p) t) (.err e :: rest)) =
          .next (done s rest (.issue t :: failing op (.transport e))))

/-- What an accessor write of an encoded image does in Open: it issues one write at its register's base, and completes on
the answer, session and mode unchanged. -/
def WritesThrough (i : Instr) (p : AuxWrite) (op : Opcode) (off : Byte) (img : List Byte) : Prop :=
  ∀ (s : State) (d : DriverSession), s.mode = .opened → s.session = some d →
    let t := Txn.busWrite d.busHandle d.busAddress off img
    exec i s = .next (waiting s i (.auxWaitWrite p) t) ∧
      ∀ rest : List Draw,
        (∀ h bs, step (given (waiting s i (.auxWaitWrite p) t) (.ok h bs :: rest)) =
          .next (done s rest [.issue t, .respond (.ok .unit)])) ∧
        (∀ e, step (given (waiting s i (.auxWaitWrite p) t) (.err e :: rest)) =
          .next (done s rest (.issue t :: failing op (.transport e))))

/-! ### The phases a step moves between (R33) -/

/-- The rows of R33's table, and in `Idle` the phases an accepted request can start. -/
def PhaseNext : Phase → Phase → Prop
  | .idle, .stWaitDateWrite => False
  | .idle, .stWaitStatusWrite => False
  | .idle, _ => True
  | .stWaitStatusRead, q => q = .stWaitDateWrite ∨ q = .idle
  | .stWaitDateWrite, q => q = .stWaitStatusWrite ∨ q = .idle
  | _, q => q = .idle

/-- The requests at the port and in flight, and the responses given. -/
def requestsAndResponses (s : State) : Nat :=
  s.requests.length + (if s.phase = .idle then 0 else 1) + s.responses.length

/-! ### Renaming the transport's error payloads -/

/-- An error with its transport payload renamed. -/
def errorMap (f : TransportErr → TransportErr) : Error → Error
  | .transport e => .transport (f e)
  | .format r i => .format r i
  | .range x => .range x

/-- An event with its transport payload renamed. -/
def eventMap (f : TransportErr → TransportErr) : Event → Event
  | .issue t => .issue t
  | .log l => .log ⟨l.op, errorMap f l.error⟩
  | .respond (.err e) => .respond (.err (errorMap f e))
  | .respond (.ok v) => .respond (.ok v)
  | .respond .unset => .respond .unset

/-- An answer with its error payload renamed. -/
def drawMap (f : TransportErr → TransportErr) : Draw → Draw
  | .ok h bs => .ok h bs
  | .err e => .err (f e)

/-- A state with every transport payload renamed. -/
def stateMap (f : TransportErr → TransportErr) (s : State) : State :=
  { s with answers := s.answers.map (drawMap f), events := s.events.map (eventMap f) }

/-- An outcome with every transport payload renamed. -/
def outcomeMap (f : TransportErr → TransportErr) : Outcome → Outcome
  | .next s => .next (stateMap f s)
  | .fault x => .fault x
  | .refused r => .refused r

end Sys2Proof.Claims

open Sys2Proof Sys2Proof.Machine Sys2Proof.Claims

/-! ### Reset and the invariant -/

/-- R370, with the table of R60. -/
def Obligations.ResetIsClosedIdleWithoutValues : Prop :=
  State.reset.mode = .closed ∧ State.reset.phase = .idle ∧ State.reset.session = none ∧ State.reset.ScratchEmpty ∧
    State.reset.responses = []

/-- The invariant of the block (Safety.lean) holds at reset. -/
def Obligations.ResetMeetsInvariant : Prop := State.reset.Inv

/-- Every step keeps the invariant, from every state that meets it: the session holds a value exactly in Open (R32), the
scratch registers hold exactly what the phase says (R33, R34), the transaction in flight is the last one issued (R98), and
nothing but the transactions of R82 was ever issued. -/
def Obligations.StepKeepsInvariant : Prop := ∀ s t : State, s.Inv → step s = .next t → t.Inv

/-- Under the invariant no step ends in a fault of the model, so every step has a next state or is a refusal of R350. -/
def Obligations.NoFaultUnderInvariant : Prop := ∀ (s : State) (f : Fault), s.Inv → step s ≠ .fault f

/-- R371: a reset issues no transaction (no `BusRelease` either), whatever the mode, and leaves the block in its reset
state; what stands on the ports stays (the model's choice, log entry 13). -/
def Obligations.ResetInMidRunIssuesNothing : Prop :=
  ∀ s : State, s.Inv → s.afterReset.Inv ∧ s.afterReset.issued = s.issued ∧ s.afterReset.session = none ∧
    s.afterReset.mode = .closed ∧ s.afterReset.phase = .idle

/-! ### Refusal -/

/-- R350, R351, R117, R118: under the invariant a step is refused exactly when the block is idle and the next request is
unassigned, carries an operand of another type, or is a session request in the wrong mode. -/
def Obligations.RefusedExactlyWhenRequestHasNoMeaning : Prop :=
  ∀ s : State, s.Inv →
    ((∃ x, step s = .refused x) ↔
      s.phase = .idle ∧ ∃ r rest, s.requests = r :: rest ∧
        (r.opcodeAssigned = false ∨ (∃ o, opcodeOf r.op = some o ∧ r.operand.fits o = false) ∨
          ∃ i, decode r = .instr i ∧ i.legalIn s.mode = false))

/-- R350, over whole runs: a run from an idle state whose next request has no meaning is refused, with one and the same
mark however long it is (so it never answers next), and a run from a state that meets the invariant is refused exactly when
it reaches such a state before its last step. -/
def Obligations.RunIsRefusedExactlyAtARequestWithoutMeaning : Prop :=
  (∀ s : State, AtRequestWithoutMeaning s → ∃ x, ∀ k : Nat, 1 ≤ k → Host.Core.run core k s = .refused x) ∧
    ∀ (k : Nat) (s : State), s.Inv →
      ((∃ x, Host.Core.run core k s = .refused x) ↔
        ∃ (j : Nat) (t : State), j < k ∧ Host.Core.run core j s = .next t ∧ AtRequestWithoutMeaning t)

/-- R351: in Closed every session request other than OPEN is refused, in Open OPEN is refused, and codec requests are
refused in neither. -/
def Obligations.WrongModeRequestsAreRefused : Prop :=
  ∀ (i : Instr) (s : State),
    (i.isCodec = false → i.opcode ≠ .openBus → s.mode = .closed → exec i s = .refused (.wrongMode i.opcode .closed)) ∧
    (i.opcode = .openBus → s.mode = .opened → exec i s = .refused (.wrongMode .openBus .opened)) ∧
    (i.isCodec = true → ∀ x, exec i s ≠ .refused x)

/-! ### Encoding -/

/-- Decode of encode, for every instruction with every operand. -/
def Obligations.DecodeOfEncodeIsTheInstruction : Prop := ∀ i : Instr, decode (encode i) = .instr i

/-- A request that decodes to an instruction is that instruction's encoding: each request has one meaning. -/
def Obligations.DecodedRequestsAreEncodings : Prop := ∀ (r : Request) (i : Instr), decode r = .instr i → encode i = r

/-- R116: the opcode byte selects the operation; a byte outside the map decodes to `Unassigned(op)`, and there are 233 of
them. -/
def Obligations.OtherOpcodesAreUnassigned : Prop :=
  (∀ (r : Request) (op : Byte), decode r = .unassigned op ↔ op = r.op ∧ r.opcodeAssigned = false) ∧
    ((List.range 256).filter fun n => (opcodeOf (BitVec.ofNat 8 n)).isNone).length = 233

/-- R113, the opcode bytes of one operation of each unit. -/
def Obligations.OpcodeMapWords : Prop :=
  (∀ v, decode ⟨0x01, .fi v⟩ = .instr (.bcdEnc v)) ∧ (∀ s c0, decode ⟨0x11, .ftd s c0⟩ = .instr (.timeDec s c0)) ∧
    (∀ s, decode ⟨0x23, .fs s⟩ = .instr (.controlDec s)) ∧ (∀ a, decode ⟨0x30, .fa a⟩ = .instr (.alarmEnc a)) ∧
    (∀ s, decode ⟨0x40, .fs s⟩ = .instr (.tempDec s)) ∧ (∀ t, decode ⟨0x82, .ft t⟩ = .instr (.setTime t)) ∧
    decode ⟨0x8B, .f0⟩ = .instr .getTemperature

/-- R122: `OPEN_DEFAULT` spells the `OPEN` of the defaults; the line reads as that request. -/
def Obligations.OpenDefaultSpellsTheDefaults : Prop :=
  openDefault = .openBus ⟨"i2c-1", ⟨0x68⟩, 2000⟩ ∧ readLine "OPEN_DEFAULT" = some (.request (encode openDefault)) ∧
    readLine "OPEN_DEFAULT 1" = none

/-! ### Steps -/

/-- R280(a), R99: an idle step takes the request at the head of the port; where it decodes to an instruction, the step is
that instruction's `exec` at the state without the request. -/
def Obligations.IdleStepRunsTheDecodedRequest : Prop :=
  ∀ (s : State) (r : Request) (rest : List Request) (i : Instr),
    s.phase = .idle → s.requests = r :: rest → decode r = .instr i → step s = exec i { s with requests := rest }

/-- R280: while a request is in flight the request port accepts nothing; the host's requests are held. -/
def Obligations.BusyPortHoldsRequests : Prop :=
  ∀ s t : State, step s = .next t →
    (s.phase ≠ .idle → t.requests = s.requests) ∧
    (s.phase = .idle → t.answers = s.answers ∧ (t = s ∧ s.requests = [] ∨ ∃ r, s.requests = r :: t.requests))

/-- R82, R98: a step issues at most one transaction, and where it leaves the block waiting on one it had none in flight
before or has just taken its answer; outputs are only ever appended, and a step gives at most one response, which it gives
exactly when it ends in `Idle` with an event put out. -/
def Obligations.OneTransactionAtATime : Prop :=
  ∀ s t : State, s.Inv → step s = .next t → ∃ es, t.events = s.events ++ es ∧
    (issuedIn es).length ≤ 1 ∧ (responsesIn es).length ≤ 1 ∧
    (es ≠ [] → ((∃ x, responsesIn es = [x]) ↔ t.phase = .idle)) ∧
    (s.phase ≠ .idle → es ≠ [] → ∃ a, s.answers = a :: t.answers) ∧
    (es = [] → t = s)

/-- R33: the phase moves by the table, row by row; a step that leaves it alone for want of an input changes nothing. -/
def Obligations.PhaseMovesFollowTheTable : Prop :=
  ∀ s t : State, step s = .next t → t = s ∨ PhaseNext s.phase t.phase

/-- R35: over any run, every accepted request is in flight or has its one response: requests held, requests in flight and
responses given keep their sum. -/
def Obligations.OneResponsePerAcceptedRequest : Prop :=
  ∀ (k : Nat) (s t : State), Host.Core.run core k s = .next t → requestsAndResponses t = requestsAndResponses s

/-- R31: no operation other than OPEN writes a session register, and TERMINATE takes their values. -/
def Obligations.OnlyOpenWritesTheSession : Prop :=
  ∀ s t : State, step s = .next t → t.session ≠ s.session →
    (s.phase = .waitOpen ∧ ∃ cfg h bs, s.req = some (.openBus cfg) ∧ s.answers = .ok h bs :: t.answers ∧
        t.session = some ⟨h, cfg.busAddress, cfg.century0, cfg.busName⟩) ∨
      (s.phase = .idle ∧ (∃ r, s.requests = r :: t.requests ∧ decode r = .instr .terminate) ∧ t.session = none)

/-- R32: only OPEN (Closed → Open on success) and TERMINATE (Open → Closed) write `mode`. -/
def Obligations.OnlyOpenAndTerminateWriteMode : Prop :=
  ∀ s t : State, step s = .next t → t.mode ≠ s.mode →
    (s.phase = .waitOpen ∧ s.mode = .closed ∧ t.mode = .opened ∧ ∃ h bs, s.answers = .ok h bs :: t.answers) ∨
      (s.phase = .idle ∧ s.mode = .opened ∧ t.mode = .closed ∧
        ∃ r, s.requests = r :: t.requests ∧ decode r = .instr .terminate)

/-- R312: an `Err` response of a session request is preceded by exactly one log event that holds that request's operation and
the same error; without an error, and without a failed GET_TIME, nothing is logged; codec requests never log. -/
def Obligations.ErrorsAreLoggedOnceBeforeTheResponse : Prop :=
  ∀ s t : State, s.Inv → step s = .next t → ∃ es, t.events = s.events ++ es ∧
    (∀ e, .respond (.err e) ∈ es →
      (s.phase ≠ .idle ∧ ∃ i, s.req = some i ∧ es = failing i.opcode e) ∨
        (s.phase = .idle ∧ ∃ r a, s.requests = r :: t.requests ∧ decode r = .instr (.setAlarm a) ∧
          es = failing .setAlarm e) ∨
        (s.phase = .idle ∧ es = [.respond (.err e)] ∧ ∃ r i, s.requests = r :: t.requests ∧ decode r = .instr i ∧
          i.isCodec = true)) ∧
    (∀ l, .log l ∈ es → es = failing l.op l.error ∨
      (Config.logGetTimeFailure = true ∧ s.phase = .waitTimeRead ∧ es = [.log l, .respond .unset]))

/-- R292, R348, R88: after an answer `Err(e)` no further transaction is issued, the request is completed and nothing is
retried; the error reaches the host with its payload unchanged, but for GET_TIME, which responds `Unset`. -/
def Obligations.FailedTransactionEndsTheRequest : Prop :=
  ∀ (s : State) (e : TransportErr) (rest : List Draw), s.Inv → s.phase ≠ .idle → s.answers = .err e :: rest →
    ∃ es, step s = .next (done s rest es) ∧ issuedIn es = [] ∧
      responsesIn es = [if s.phase = .waitTimeRead then .unset else .err (.transport e)]

/-- R88: the block never inspects a transport error's payload. Renaming every payload in a state by any function renames
it in the outcome of a step and changes nothing else. -/
def Obligations.TransportErrorsAreNeverInspected : Prop :=
  ∀ (f : TransportErr → TransportErr) (s : State), step (stateMap f s) = outcomeMap f (step s)

/-- R313: with as many answers at the port as it can take, every accepted request that is legal in the mode completes: in
at most 1 answer step (3 for SET_TIME, none for a codec request and TERMINATE) after the step that accepts it, the block is
idle again, the request is gone from the port, and exactly one response was given. -/
def Obligations.EveryRequestCompletes : Prop :=
  ∀ (s : State) (r : Request) (rest : List Request) (i : Instr),
    s.Inv → s.phase = .idle → s.requests = r :: rest → decode r = .instr i → i.legalIn s.mode = true →
    mostAnswers i ≤ s.answers.length →
    ∃ (k : Nat) (t : State) (x : Response),
      k ≤ mostAnswers i ∧ Host.Core.run core (1 + k) s = .next t ∧ t.phase = .idle ∧
        t.requests = rest ∧ t.responses = s.responses ++ [x]

/-! ### The codecs -/

/-- R115: a codec request (opcode byte bit 7 = 0) runs in every state, responds with a value that no state has a part in,
issues no transaction and changes nothing but the response port. -/
def Obligations.CodecRequestsOnlyRespond : Prop :=
  ∀ i : Instr, (encode i).op.extractLsb' 7 1 = 0#1 → ∃ r, ∀ s : State, exec i s = .next (put s [.respond r])

/-- R140: BCD_ENC packs the tens digit in the high nibble and the ones digit in the low one; RangeError(value) exactly
below 0 and above 99. -/
def Obligations.BcdEncPacksDigitsOrRangeError : Prop :=
  ∀ (v : Int) (s : State), Encodes (.bcdEnc v) 0x01 (.fi v) ∧
    (0 ≤ v → v ≤ 99 → ∃ b : Byte, exec (.bcdEnc v) s = .next (put s [.respond (.ok (.byte b))]) ∧
      ((b.extractLsb' 4 4).toNat : Int) = v / 10 ∧ ((b.extractLsb' 0 4).toNat : Int) = v % 10) ∧
    (v < 0 ∨ 99 < v → exec (.bcdEnc v) s = .next (put s [.respond (.err (.range .value))]))

/-- R145: BCD_DEC reads ten times the high nibble plus the low one; FormatError(Bcd, 0) exactly when a nibble exceeds 9.
Inside a register codec the same failure is reported with that codec's register and byte index. -/
def Obligations.BcdDecReadsDigitsOrFormatError : Prop :=
  (∀ (reg : RegName) (idx : Nat) (row : FieldRow) (b : Byte), bcdDec (b &&& row.val) = none →
    decodeField reg idx row b = .error (.format reg idx)) ∧
  ∀ (b : Byte) (s : State), Encodes (.bcdDec b) 0x02 (.fb b) ∧
    (b.toNat / 16 ≤ 9 → b.toNat % 16 ≤ 9 →
      exec (.bcdDec b) s = .next (put s [.respond (.ok (.int (10 * (b.toNat / 16) + b.toNat % 16)))])) ∧
    (9 < b.toNat / 16 ∨ 9 < b.toNat % 16 → exec (.bcdDec b) s = .next (put s [.respond (.err (.format .bcd 0))]))

/-- R146, R147, R148: the round trips of the BCD codec both ways, and the count of the bytes that decode. -/
def Obligations.BcdRoundTripsBothWays : Prop :=
  (∀ v : Int, 0 ≤ v → v ≤ 99 → ∃ b, bcdEnc v = .ok b ∧ bcdDec b = some v) ∧
    (∀ (b : Byte) (v : Int), bcdDec b = some v → bcdEnc v = .ok b ∧ 0 ≤ v ∧ v ≤ 99) ∧
    ((List.range 256).filter fun n => (bcdDec (BitVec.ofNat 8 n)).isSome).length = 100

/-- R160, R161, R162: TIME_ENC on every calendar time and century base: the RangeError of the first field out of range in
the check order, or the image with the century bit of the year's window. -/
def Obligations.TimeEncImageOrFirstRangeError : Prop :=
  ∀ (t : CalendarTime) (c0 : Int) (s : State), Encodes (.timeEnc t c0) 0x10 (.fte t c0) ∧
    exec (.timeEnc t c0) s = .next (put s [.respond (match firstBadTimeField t c0 with
      | some f => .err (.range f)
      | none => .ok (.bytes (bytesOf (timeImageInts t c0))))])

/-- R166, R167, R168, R169, R170: TIME_DEC on every byte list and century base, against the tables of R166. -/
def Obligations.TimeDecFollowsFieldTables : Prop :=
  ∀ (bs : List Byte) (c0 : Int) (s : State), Encodes (.timeDec bs c0) 0x11 (.ftd bs c0) ∧
    exec (.timeDec bs c0) s = .next (put s [.respond (timeDecResponse bs c0)])

/-- R172: decoding the image of a valid time gives the time back. -/
def Obligations.TimeRoundTripFromTimes : Prop :=
  ∀ (t : CalendarTime) (c0 : Int), Valid t c0 → ∃ img, timeEnc t c0 = .ok img ∧ timeDec img.toList c0 = .ok t

/-- R174: every accepted image is canonical, and encoding is a bijection from the valid times onto the accepted images. -/
def Obligations.AcceptedTimeImagesAreCanonical : Prop :=
  (∀ (bs : List Byte) (c0 : Int) (t : CalendarTime), timeDec bs c0 = .ok t →
    Valid t c0 ∧ ∃ img, timeEnc t c0 = .ok img ∧ img.toList = bs) ∧
  (∀ (t u : CalendarTime) (c0 : Int) (img : Vector Byte 7), timeEnc t c0 = .ok img → timeEnc u c0 = .ok img → t = u) ∧
  (∀ (t : CalendarTime) (c0 : Int) (img : Vector Byte 7), timeEnc t c0 = .ok img → ∃ u, timeDec img.toList c0 = .ok u)

/-- R176: the century base moves the year of a success and nothing else. -/
def Obligations.CenturyBaseOnlyMovesTheYear : Prop :=
  (∀ (bs : List Byte) (c0 c1 : Int), timeDec bs c1 =
    (timeDec bs c0).map fun t => { t with year := t.year - c0 + c1 }) ∧
  (∀ (t : CalendarTime) (c0 c1 : Int) (f : FieldName), f ≠ .year →
    (timeEnc t c0 = .error (.range f) ↔ timeEnc t c1 = .error (.range f)))

/-- R200: STATUS_ENC puts each flag in its bit and zero in bits 6:4. -/
def Obligations.StatusEncPlacesFlags : Prop :=
  ∀ (f : StatusFlags) (s : State), Encodes (.statusEnc f) 0x20 (.fsf f) ∧ ∃ b : Byte, exec (.statusEnc f) s = .next (put s [.respond (.ok (.byte b))]) ∧
    b.toNat = 128 * f.osf.toNat + 8 * f.en32khz.toNat + 4 * f.bsy.toNat + 2 * f.a2f.toNat + f.a1f.toNat

/-- R201: STATUS_DEC extracts the five flags of a single byte, and fails on every other length. -/
def Obligations.StatusDecExtractsFlags : Prop :=
  (∀ bs, Encodes (.statusDec bs) 0x21 (.fs bs)) ∧
  (∀ (b : Byte) (s : State), ∃ f, exec (.statusDec [b]) s = .next (put s [.respond (.ok (.status f))]) ∧
    f.osf.toNat = bitNat b 7 ∧ f.en32khz.toNat = bitNat b 3 ∧ f.bsy.toNat = bitNat b 2 ∧ f.a2f.toNat = bitNat b 1 ∧
    f.a1f.toNat = bitNat b 0) ∧
  (∀ (bs : List Byte) (s : State), bs.length ≠ 1 →
    exec (.statusDec bs) s = .next (put s [.respond (.err (.format .status (min bs.length 1)))]))

/-- R202, R204: the status codec is exact on its five fields and drops bits 6:4, and the oscillator-stop clear is
`b & 0x0F`. -/
def Obligations.StatusCodecLaws : Prop :=
  (∀ f : StatusFlags, statusDec [statusEnc f] = .ok f) ∧
  (∀ (b : Byte) (f : StatusFlags), statusDec [b] = .ok f →
    statusEnc f = b &&& 0x8F ∧ statusClearOsf b = statusEnc { f with osf := 0 } ∧ statusClearOsf b = b &&& 0x0F)

/-- R205: CONTROL_ENC puts each field in its place. -/
def Obligations.ControlEncPlacesFields : Prop :=
  ∀ (f : ControlFlags) (s : State), Encodes (.controlEnc f) 0x22 (.fcf f) ∧ ∃ b : Byte, exec (.controlEnc f) s = .next (put s [.respond (.ok (.byte b))]) ∧
    b.toNat = 128 * f.eosc.toNat + 64 * f.bbsqw.toNat + 32 * f.conv.toNat + 8 * f.rs.toNat + 4 * f.intcn.toNat +
      2 * f.a2ie.toNat + f.a1ie.toNat

/-- R206: CONTROL_DEC extracts the fields of a single byte, and fails on every other length. -/
def Obligations.ControlDecExtractsFields : Prop :=
  (∀ bs, Encodes (.controlDec bs) 0x23 (.fs bs)) ∧
  (∀ (b : Byte) (s : State), ∃ f, exec (.controlDec [b]) s = .next (put s [.respond (.ok (.control f))]) ∧
    f.eosc.toNat = bitNat b 7 ∧ f.bbsqw.toNat = bitNat b 6 ∧ f.conv.toNat = bitNat b 5 ∧
    f.rs.toNat = 2 * bitNat b 4 + bitNat b 3 ∧ f.intcn.toNat = bitNat b 2 ∧ f.a2ie.toNat = bitNat b 1 ∧
    f.a1ie.toNat = bitNat b 0) ∧
  (∀ (bs : List Byte) (s : State), bs.length ≠ 1 →
    exec (.controlDec bs) s = .next (put s [.respond (.err (.format .control (min bs.length 1)))]))

/-- R207: the control codec is a bijection between ControlFlags and Byte. -/
def Obligations.ControlCodecIsBijective : Prop :=
  (∀ f : ControlFlags, controlDec [controlEnc f] = .ok f) ∧
  (∀ (b : Byte) (f : ControlFlags), controlDec [b] = .ok f → controlEnc f = b)

/-- R230, R231, R232, R252: ALARM_ENC on every alarm spec: the RangeError of the first field out of range, or the image with
the mode's mask bits. -/
def Obligations.AlarmEncImageOrFirstRangeError : Prop :=
  ∀ (a : AlarmSpec) (s : State), Encodes (.alarmEnc a) 0x30 (.fa a) ∧
    exec (.alarmEnc a) s = .next (put s [.respond (match firstBadAlarmField a with
      | some f => .err (.range f)
      | none => .ok (.bytes (bytesOf (alarmImageInts a))))])

/-- R240, R241, R242, R244, R245: ALARM_DEC on every byte list. -/
def Obligations.AlarmDecFollowsFieldTables : Prop :=
  ∀ (bs : List Byte) (s : State), Encodes (.alarmDec bs) 0x31 (.fs bs) ∧
    exec (.alarmDec bs) s = .next (put s [.respond (match alarmDecResult bs with
      | .ok a => .ok (.alarm a)
      | .error e => .err e)])

/-- R250: decoding the image of an alarm spec gives the spec back. -/
def Obligations.AlarmRoundTripFromSpecs : Prop :=
  ∀ (a : AlarmSpec) (bs : List Byte), alarmEnc a = .ok bs → alarmDec bs = .ok a

/-- R251: encoding what an image decodes to gives the image back, with DY cleared outside the day modes. -/
def Obligations.AlarmRoundTripFromImages : Prop :=
  ∀ (bs : List Byte) (a : AlarmSpec), alarmDec bs = .ok a →
    alarmEnc a = .ok (if isDayMode a then bs else clearDy bs)

/-- R270, R271: TEMP_DEC gives four times the signed integer byte plus the two fraction bits, which is the 10-bit
two's-complement number of the two, and fails on every length but 2. -/
def Obligations.TempDecIsTenBitSigned : Prop :=
  (∀ bs, Encodes (.tempDec bs) 0x40 (.fs bs)) ∧
  (∀ (b0 b1 : Byte) (s : State),
    exec (.tempDec [b0, b1]) s =
      .next (put s [.respond (.ok (.temperature (4 * b0.toInt + (b1.toNat / 64 : Nat))))]) ∧
    4 * b0.toInt + (b1.toNat / 64 : Nat) = (b0.setWidth 10 <<< 2 ||| (b1 >>> 6).setWidth 10 : BitVec 10).toInt) ∧
  (∀ (bs : List Byte) (s : State), bs.length ≠ 2 →
    exec (.tempDec bs) s = .next (put s [.respond (.err (.format .temperature (min bs.length 2)))]))

/-- R272: every 2-byte image decodes into −512..511; two images decode alike exactly when they differ in bits 5:0 of the
second byte alone; each value there has exactly one image with those bits zero. -/
def Obligations.TempDecIsBijectiveOnCanonicalImages : Prop :=
  (∀ b0 b1 : Byte, ∃ q, tempDec [b0, b1] = .ok q ∧ -512 ≤ q ∧ q ≤ 511) ∧
  (∀ b0 b1 e0 e1 : Byte, tempDec [b0, b1] = tempDec [e0, e1] ↔ b0 = e0 ∧ b1 >>> 6 = e1 >>> 6) ∧
  (∀ q : Int, -512 ≤ q → q ≤ 511 → ∃! p : Byte × Byte, p.2 &&& 0x3F = 0 ∧ tempDec [p.1, p.2] = .ok q)

/-! ### The session requests -/

/-- R282: OPEN is refused in Open; in Closed it issues `BusOpen(cfg.bus_name)` and waits; on success it writes the four session registers and the
mode; on failure it logs, responds with the transport's error and writes none of them. -/
def Obligations.OpenAcquiresTheBusOrStaysClosed : Prop :=
  (∀ cfg, Encodes (.openBus cfg) 0x80 (.fcfg cfg) ∧ LegalOnlyIn .closed (.openBus cfg)) ∧
  ∀ (s : State) (cfg : OpenConfig), s.mode = .closed →
    let t := Txn.busOpen cfg.busName
    let w := waiting s (.openBus cfg) .waitOpen t
    exec (.openBus cfg) s = .next w ∧
      ∀ rest : List Draw,
        (∀ h bs, step (given w (.ok h bs :: rest)) =
          .next { done s rest [.issue t, .respond (.ok .unit)] with
            mode := .opened, session := some ⟨h, cfg.busAddress, cfg.century0, cfg.busName⟩ }) ∧
        (∀ e, step (given w (.err e :: rest)) = .next (done s rest (.issue t :: failing .openBus (.transport e))))

/-- R285: GET_TIME is refused in Closed; in Open it issues `BusRead(0x00, 7)` and waits; it responds with the decoded time, and with `Unset` on
every bus or decode failure, logged only where the parameter says so. -/
def Obligations.GetTimeDecodesOrIsUnset : Prop :=
  Encodes .getTime 0x81 .f0 ∧ LegalOnlyIn .opened .getTime ∧
  ∀ (s : State) (d : DriverSession), s.mode = .opened → s.session = some d →
    let t := Txn.busRead d.busHandle d.busAddress 0x00 7
    let w := waiting s .getTime .waitTimeRead t
    exec .getTime s = .next w ∧
      ∀ rest : List Draw,
        (∀ h bs, step (given w (.ok h bs :: rest)) =
          .next (done s rest (.issue t :: (match timeDec bs d.century0 with
            | .ok x => [.respond (.ok (.time x))]
            | .error e => maybeLog e ++ [.respond .unset])))) ∧
        (∀ e, step (given w (.err e :: rest)) =
          .next (done s rest (.issue t :: (maybeLog (.transport e) ++ [.respond .unset]))))

/-- From R166, R285 and R287: GET_TIME responds `Unset` to an all-zero image, and to every answer that contains a byte 0x0A:
in a BCD field by the BCD check, in the day-of-week byte by the reserved bits, in a list of another length by its length. -/
def Obligations.GetTimeOnCorruptImageIsUnset : Prop :=
  ∀ (s : State) (d : DriverSession) (h : BusHandle) (bs : List Byte) (rest : List Draw),
    s.phase = .waitTimeRead → s.session = some d → s.answers = .ok h bs :: rest →
    (bs = List.replicate 7 0 ∨ 0x0A ∈ bs) →
    ∃ t, step s = .next t ∧ t.responses = s.responses ++ [.unset] ∧ t.mode = s.mode ∧ t.session = s.session

/-- R290, R294: SET_TIME is refused in Closed; in Open it reads the status, encodes the time, writes the 7 date bytes,
and writes back the status byte of its first step with the high nibble zero, then responds `Ok(())`. A transport error or a
wrong length at step 1 and a range error at step 2 end it with no write, a transport error at step 3 with the date write
issued, at step 5 with both. The session never changes. -/
def Obligations.SetTimeRunsOrStopsAtTheFailedStep : Prop :=
  (∀ t, Encodes (.setTime t) 0x82 (.ft t) ∧ LegalOnlyIn .opened (.setTime t)) ∧
  ∀ (s : State) (d : DriverSession) (t : CalendarTime) (rest : List Draw),
    s.mode = .opened → s.session = some d →
    let t1 := Txn.busRead d.busHandle d.busAddress 0x0F 1
    let t5 := fun b : Byte => Txn.busWrite d.busHandle d.busAddress 0x0F [b &&& 0x0F]
    let w := waiting s (.setTime t) .stWaitStatusRead t1
    let run := fun (k : Nat) (answers : List Draw) => Host.Core.run core k (given w (answers ++ rest))
    exec (.setTime t) s = .next w ∧
    (∀ e, run 1 [.err e] = .next (done s rest (.issue t1 :: failing .setTime (.transport e)))) ∧
    (∀ h bs, bs.length ≠ 1 → run 1 [.ok h bs] =
      .next (done s rest (.issue t1 :: failing .setTime (.format .status (min bs.length 1))))) ∧
    (∀ h b f, firstBadTimeField t d.century0 = some f → run 1 [.ok h [b]] =
      .next (done s rest (.issue t1 :: failing .setTime (.range f)))) ∧
    (firstBadTimeField t d.century0 = none →
      let t3 := Txn.busWrite d.busHandle d.busAddress 0x00 (bytesOf (timeImageInts t d.century0))
      (∀ h b e, run 2 [.ok h [b], .err e] =
        .next (done s rest ([.issue t1, .issue t3] ++ failing .setTime (.transport e)))) ∧
      (∀ h b h3 x3 e, run 3 [.ok h [b], .ok h3 x3, .err e] =
        .next (done s rest ([.issue t1, .issue t3, .issue (t5 b)] ++ failing .setTime (.transport e)))) ∧
      (∀ h b h3 x3 h5 x5, run 3 [.ok h [b], .ok h3 x3, .ok h5 x5] =
        .next (done s rest [.issue t1, .issue t3, .issue (t5 b), .respond (.ok .unit)])))

/-- R300: TERMINATE is refused in Closed; in Open it completes in one step: it releases the handle, awaits no answer, closes the session whose
registers lose their values, and responds `Ok(())`. -/
def Obligations.TerminateReleasesAndCloses : Prop :=
  Encodes .terminate 0x83 .f0 ∧ LegalOnlyIn .opened .terminate ∧
  ∀ (s : State) (d : DriverSession), s.mode = .opened → s.session = some d →
    exec .terminate s =
      .next { done s s.answers [.issue (.busRelease d.busHandle), .respond (.ok .unit)] with
        mode := .closed, session := none }

/-- R303, R305, R309: GET_STATUS, GET_CONTROL and GET_TEMPERATURE. -/
def Obligations.StatusControlTemperatureReads : Prop :=
  ReadsThrough .getStatus 0x84 .status .getStatus 0x0F 1 (fun bs => (statusDec bs).map .status) ∧
    ReadsThrough .getControl 0x86 .control .getControl 0x0E 1 (fun bs => (controlDec bs).map .control) ∧
    ReadsThrough .getTemperature 0x8B .temperature .getTemperature 0x11 2 (fun bs => (tempDec bs).map .temperature)

/-- R307: GET_ALARM1 and GET_ALARM2, each with the decoder of its own length. -/
def Obligations.AlarmReadsUseFixedLengthDecoders : Prop :=
  ReadsThrough .getAlarm1 0x88 .alarm1 .getAlarm1 0x07 4 (fun bs => (alarm1DecResult bs).map .alarm) ∧
    ReadsThrough .getAlarm2 0x89 .alarm2 .getAlarm2 0x0B 3 (fun bs => (alarm2DecResult bs).map .alarm)

/-- R304, R306: SET_STATUS and SET_CONTROL. -/
def Obligations.StatusControlWrites : Prop :=
  (∀ f, Encodes (.setStatus f) 0x85 (.fsf f) ∧ LegalOnlyIn .opened (.setStatus f) ∧
    WritesThrough (.setStatus f) .status .setStatus 0x0F [statusEnc f]) ∧
    (∀ f, Encodes (.setControl f) 0x87 (.fcf f) ∧ LegalOnlyIn .opened (.setControl f) ∧
      WritesThrough (.setControl f) .control .setControl 0x0E [controlEnc f])

/-- R308: SET_ALARM writes the encoded image at its alarm's base; on a field out of range it responds the RangeError with no
transaction. -/
def Obligations.SetAlarmWritesOrFailsBeforeTheBus : Prop :=
  (∀ a, Encodes (.setAlarm a) 0x8A (.fa a) ∧ LegalOnlyIn .opened (.setAlarm a)) ∧
  (∀ sec min hour day mode, firstBadAlarmField (.alarm1 sec min hour day mode) = none →
    WritesThrough (.setAlarm (.alarm1 sec min hour day mode)) .alarm1 .setAlarm 0x07
      (bytesOf (alarmImageInts (.alarm1 sec min hour day mode)))) ∧
  (∀ min hour day mode, firstBadAlarmField (.alarm2 min hour day mode) = none →
    WritesThrough (.setAlarm (.alarm2 min hour day mode)) .alarm2 .setAlarm 0x0B
      (bytesOf (alarmImageInts (.alarm2 min hour day mode)))) ∧
  (∀ (a : AlarmSpec) (f : FieldName) (s : State) (d : DriverSession), s.mode = .opened → s.session = some d →
    firstBadAlarmField a = some f → exec (.setAlarm a) s = .next (done s s.answers (failing .setAlarm (.range f))))

/-- R310: accessors never change `mode` or any session register, whatever their outcome. -/
def Obligations.AccessorsKeepTheSession : Prop :=
  ∀ s t : State, step s = .next t →
    ((∃ r, s.phase = .auxWaitRead r) ∨ (∃ r, s.phase = .auxWaitWrite r) ∨
      (s.phase = .idle ∧ ∃ r i, s.requests = r :: t.requests ∧ decode r = .instr i ∧
        i.opcode ∈ [Opcode.getStatus, .setStatus, .getControl, .setControl, .getAlarm1, .getAlarm2, .setAlarm,
          .getTemperature])) →
    t.mode = s.mode ∧ t.session = s.session

/-! ### The register map and the wire -/

/-- R81: the register map's offsets and lengths; its regions do not overlap, and offset 0x10 and those from 0x13 on are in
none. -/
def Obligations.RegisterMapRegionsAreDisjoint : Prop :=
  ([ChipReg.time, .alarm1, .alarm2, .control, .status, .temperature].map fun r => (r.offset.toNat, r.length)) =
      [(0x00, 7), (0x07, 4), (0x0B, 3), (0x0E, 1), (0x0F, 1), (0x11, 2)] ∧
    (∀ r q : ChipReg, r ≠ q →
      r.offset.toNat + r.length ≤ q.offset.toNat ∨ q.offset.toNat + q.length ≤ r.offset.toNat) ∧
    ∀ (r : ChipReg) (a : Nat), a = 0x10 ∨ 0x13 ≤ a → a < r.offset.toNat ∨ r.offset.toNat + r.length ≤ a

/-- R85, R86, R87: on the wire the register offset is the first written byte, and the transactions name the session's
handle and address. -/
def Obligations.WireFramingPutsTheOffsetFirst : Prop :=
  (∀ h a off n, (Txn.busRead h a off n).call = .writeThenRead h a [off] n) ∧
    (∀ h a off data, (Txn.busWrite h a off data).call = .write h a ([off] ++ data)) ∧
    (∀ name, (Txn.busOpen name).call = .open_ name) ∧ (∀ h, (Txn.busRelease h).call = .release h)

/-! ### The reference chip -/

/-- R295, on the reference chip of R97: where the write-back of SET_TIME fails and no other transaction, the date bytes are
written, the status byte keeps its old value, and SET_TIME reports the failure. -/
def Obligations.WriteBackFailureLeavesDateWritten : Prop :=
  ∀ (g : Rig) (d : DriverSession) (t : CalendarTime) (img : Vector Byte 7) (r : Request) (rest : List Request)
    (e : TransportErr),
    g.block.phase = .idle → g.block.mode = .opened → g.block.session = some d → g.block.requests = r :: rest →
    decode r = .instr (.setTime t) → timeEnc t d.century0 = .ok img → g.regs.wf = true →
    g.script = [none, none, some e] →
    ∃ g', Rig.run 4 g = .next g' ∧ g'.block.phase = .idle ∧
      g'.block.responses = g.block.responses ++ [.err (.transport e)] ∧
      g'.regs.readBytes 0x00 7 = img.toList ∧
      (∀ a : Nat, 7 ≤ a → g'.regs.readByte a = g.regs.readByte a)
end

