-- ==== Sys2Proof/Laws/Codec.lean ====
section
/-! SUPPORT. One lemma per codec function: when it succeeds, with what, and what it fails with. -/

namespace Sys2Proof.Machine

/-! ### BCD -/

theorem bcdDec_bcdByte_fin : ∀ n : Fin 100, bcdDec (bcdByte (n.val : Int)) = some (n.val : Int) := by decide

/-- On 0..99 decoding undoes encoding (used by the codecs' round trips). -/
theorem bcdDec_bcdByte {v : Int} (h0 : 0 ≤ v) (h1 : v ≤ 99) : bcdDec (bcdByte v) = some v := by
  obtain ⟨n, rfl⟩ := Int.eq_ofNat_of_zero_le h0
  exact bcdDec_bcdByte_fin ⟨n, by omega⟩

theorem bcdByte_of_bcdDec_all :
    ∀ b : Byte, ((bcdDec b).all fun v => bcdByte v == b && decide (0 ≤ v) && decide (v ≤ 99)) = true := by decide

/-- A byte that decodes is the encoding of its value, which lies in 0..99. -/
theorem bcdByte_of_bcdDec {b : Byte} {v : Int} (h : bcdDec b = some v) : bcdByte v = b ∧ 0 ≤ v ∧ v ≤ 99 := by
  have := bcdByte_of_bcdDec_all b
  rw [h] at this
  simpa [and_assoc] using this

theorem bcdByte_toNat_fin : ∀ n : Fin 100, (bcdByte (n.val : Int)).toNat = n.val + 6 * (n.val / 10) := by decide

/-- The arithmetic form of a packed byte. -/
theorem bcdByte_eq_ofInt {v : Int} (h0 : 0 ≤ v) (h1 : v ≤ 99) : bcdByte v = BitVec.ofInt 8 (v + 6 * (v / 10)) := by
  obtain ⟨n, rfl⟩ := Int.eq_ofNat_of_zero_le h0
  have h := bcdByte_toNat_fin ⟨n, by omega⟩
  apply BitVec.eq_of_toNat_eq
  rw [h]
  simp only [BitVec.toNat_ofInt]
  omega

@[simp] theorem bcdEnc_eq_ok_iff {v : Int} {b : Byte} : bcdEnc v = .ok b ↔ 0 ≤ v ∧ v ≤ 99 ∧ b = bcdByte v := by
  unfold bcdEnc
  split
  · simp; omega
  · simp only [Except.ok.injEq]; constructor
    · rintro rfl; exact ⟨by omega, by omega, rfl⟩
    · rintro ⟨_, _, rfl⟩; rfl

/-! ### Checks and fields -/

@[simp] theorem checkRange_eq_ok_iff {lo v hi : Int} {f : FieldName} {u : Unit} :
    checkRange lo v hi f = .ok u ↔ lo ≤ v ∧ v ≤ hi := by
  unfold checkRange; split <;> simp_all

theorem checkRange_of_mem {lo v hi : Int} {f : FieldName} (h : lo ≤ v ∧ v ≤ hi) : checkRange lo v hi f = .ok () := by
  simp [checkRange, h]

theorem checkRange_of_not_mem {lo v hi : Int} {f : FieldName} (h : ¬(lo ≤ v ∧ v ≤ hi)) :
    checkRange lo v hi f = .error (.range f) := by
  simp [checkRange, h]

/-- When a field decodes, and to what. -/
theorem decodeField_eq_ok_iff {reg : RegName} {idx : Nat} {row : FieldRow} {b : Byte} {v : Int} :
    decodeField reg idx row b = .ok v ↔
      b &&& row.res = 0 ∧ bcdDec (b &&& row.val) = some v ∧ row.lo ≤ v ∧ v ≤ row.hi := by
  unfold decodeField
  split
  · simp_all
  · split
    · simp_all
    · rename_i h1 _ w h2
      split
      · simp only [Except.ok.injEq, h2, Option.some.injEq]
        constructor
        · rintro rfl; exact ⟨by simpa using h1, rfl, by assumption⟩
        · rintro ⟨_, h, _⟩; exact h
      · simp only [reduceCtorEq, h2, Option.some.injEq, false_iff]
        rintro ⟨_, rfl, h⟩; exact absurd h (by assumption)

/-- A field fails with its own register and index only. -/
theorem decodeField_eq_error {reg : RegName} {idx : Nat} {row : FieldRow} {b : Byte} {e : Error}
    (h : decodeField reg idx row b = .error e) : e = .format reg idx := by
  unfold decodeField at h
  split at h
  · simpa using h.symm
  · split at h
    · simpa using h.symm
    · split at h
      · cases h
      · simpa using h.symm

/-! ### Time -/

/-- Which window a year lies in. -/
theorem centuryOf_eq_ok_iff {year c0 : Int} {cb : Bit} {yy : Int} :
    centuryOf year c0 = .ok (cb, yy) ↔
      (cb = 0 ∧ yy = year - c0 ∧ c0 ≤ year ∧ year ≤ c0 + 99) ∨
        (cb = 1 ∧ yy = year - (c0 + 100) ∧ c0 + 100 ≤ year ∧ year ≤ c0 + 199) := by
  have hs : Config.centurySpan = 100 := rfl
  unfold centuryOf
  dsimp only
  by_cases h0 : c0 ≤ year ∧ year ≤ c0 + 99
  · rw [if_pos h0, Except.ok.injEq, Prod.mk.injEq]
    constructor
    · rintro ⟨rfl, rfl⟩; left; exact ⟨rfl, rfl, h0⟩
    · rintro (⟨rfl, rfl, _⟩ | ⟨rfl, rfl, h⟩)
      · exact ⟨rfl, rfl⟩
      · omega
  · rw [if_neg h0]
    by_cases h1 : c0 + Config.centurySpan ≤ year ∧ year ≤ c0 + Config.centurySpan + 99
    · rw [if_pos h1, Except.ok.injEq, Prod.mk.injEq]
      constructor
      · rintro ⟨rfl, rfl⟩; right; exact ⟨rfl, by omega, by omega, by omega⟩
      · rintro (⟨rfl, rfl, h⟩ | ⟨rfl, rfl, _⟩)
        · omega
        · exact ⟨rfl, by omega⟩
    · rw [if_neg h1]; simp only [reduceCtorEq, false_iff]; omega

@[simp] theorem checkDow_eq_ok_iff {dow : Option Int} {u : Unit} :
    checkDow dow = .ok u ↔ ∀ w, dow = some w → 1 ≤ w ∧ w ≤ 7 := by
  cases dow <;> simp [checkDow]

/-! ### Status and control, over every byte and every flag record -/

theorem statusFlagsOf_statusEnc_all :
    ∀ a b c d e : Bit, statusFlagsOf (statusEnc ⟨a, b, c, d, e⟩) = ⟨a, b, c, d, e⟩ := by decide

theorem statusEnc_statusFlagsOf (b : Byte) : statusEnc (statusFlagsOf b) = b &&& 0x8F := by
  revert b; decide

theorem statusClearOsf_eq (b : Byte) : statusClearOsf b = b &&& 0x0F := by
  revert b; decide

theorem controlFlagsOf_controlEnc_all :
    ∀ a b c : Bit, ∀ r : UInt2, ∀ d e f : Bit,
      controlFlagsOf (controlEnc ⟨a, b, c, r, d, e, f⟩) = ⟨a, b, c, r, d, e, f⟩ := by decide

theorem controlEnc_controlFlagsOf (b : Byte) : controlEnc (controlFlagsOf b) = b := by
  revert b; decide

/-- A status decode succeeds on single bytes only. -/
theorem statusDec_eq_ok_iff {s : List Byte} {f : StatusFlags} :
    statusDec s = .ok f ↔ ∃ b, s = [b] ∧ f = statusFlagsOf b := by
  unfold statusDec
  split
  · simp [eq_comm]
  · rename_i h
    simp only [reduceCtorEq, false_iff]
    rintro ⟨b, rfl, _⟩; exact h b rfl

/-! ### The codecs as chains of checks -/

/-- A chain of checks succeeds exactly when its first check does and the rest does on its value. -/
theorem bind_eq_ok_iff {ε α β : Type} {x : Except ε α} {f : α → Except ε β} {b : β} :
    (x >>= f) = .ok b ↔ ∃ a, x = .ok a ∧ f a = .ok b := by
  cases x <;> simp [bind, Except.bind]

/-- When a time encodes, and to what. -/
theorem timeEnc_eq_ok_iff {t : CalendarTime} {c0 : Int} {img : Vector Byte 7} :
    timeEnc t c0 = .ok img ↔
      (0 ≤ t.second ∧ t.second ≤ 59) ∧ (0 ≤ t.minute ∧ t.minute ≤ 59) ∧ (0 ≤ t.hour ∧ t.hour ≤ 23) ∧
        (∀ w, t.dow = some w → 1 ≤ w ∧ w ≤ 7) ∧ (1 ≤ t.day ∧ t.day ≤ 31) ∧ (1 ≤ t.month ∧ t.month ≤ 12) ∧
        ∃ cb yy, centuryOf t.year c0 = .ok (cb, yy) ∧ img = timeImage t cb yy := by
  unfold timeEnc
  simp only [bind_eq_ok_iff, checkRange_eq_ok_iff, checkDow_eq_ok_iff]
  constructor
  · rintro ⟨_, h1, _, h2, _, h3, _, h4, _, h5, _, h6, ⟨cb, yy⟩, h7, h8⟩
    cases h8
    exact ⟨h1, h2, h3, h4, h5, h6, cb, yy, h7, rfl⟩
  · rintro ⟨h1, h2, h3, h4, h5, h6, cb, yy, h7, rfl⟩
    exact ⟨(), h1, (), h2, (), h3, (), h4, (), h5, (), h6, (cb, yy), h7, rfl⟩

/-- When a time image decodes, and to what. -/
theorem timeDec_eq_ok_iff {bs : List Byte} {c0 : Int} {t : CalendarTime} :
    timeDec bs c0 = .ok t ↔
      ∃ b0 b1 b2 b3 b4 b5 b6 v0 v1 v2 v3 v4 v5 v6, bs = [b0, b1, b2, b3, b4, b5, b6] ∧
        decodeField .time 0 timeSecond b0 = .ok v0 ∧ decodeField .time 1 timeMinute b1 = .ok v1 ∧
        decodeField .time 2 timeHour b2 = .ok v2 ∧ decodeField .time 3 timeDow b3 = .ok v3 ∧
        decodeField .time 4 timeDate b4 = .ok v4 ∧ decodeField .time 5 timeMonth b5 = .ok v5 ∧
        decodeField .time 6 timeYear b6 = .ok v6 ∧ t = timeOf v0 v1 v2 v3 v4 v5 v6 (bitAt b5 7) c0 := by
  unfold timeDec
  split
  · simp only [bind_eq_ok_iff]
    constructor
    · rintro ⟨v0, h0, v1, h1, v2, h2, v3, h3, v4, h4, v5, h5, v6, h6, h⟩
      cases h
      exact ⟨_, _, _, _, _, _, _, v0, v1, v2, v3, v4, v5, v6, rfl, h0, h1, h2, h3, h4, h5, h6, rfl⟩
    · rintro ⟨_, _, _, _, _, _, _, v0, v1, v2, v3, v4, v5, v6, h, h0, h1, h2, h3, h4, h5, h6, rfl⟩
      cases h
      exact ⟨v0, h0, v1, h1, v2, h2, v3, h3, v4, h4, v5, h5, v6, h6, rfl⟩
  · rename_i h
    constructor
    · intro h'; cases h'
    · rintro ⟨_, _, _, _, _, _, _, _, _, _, _, _, _, _, rfl, _⟩; exact absurd rfl (h _ _ _ _ _ _ _)

/-- When an alarm 1 image decodes, and to what. -/
theorem alarm1Dec_eq_ok_iff {bs : List Byte} {a : AlarmSpec} :
    alarm1Dec bs = .ok a ↔
      ∃ b0 b1 b2 b3 v0 v1 v2 v3 mode, bs = [b0, b1, b2, b3] ∧
        decodeField .alarm1 0 alarmSecond b0 = .ok v0 ∧ decodeField .alarm1 1 alarmMinute b1 = .ok v1 ∧
        decodeField .alarm1 2 alarmHour b2 = .ok v2 ∧ decodeField .alarm1 3 (alarmDay (bitAt b3 6)) b3 = .ok v3 ∧
        a1ModeOf (bitAt b0 7) (bitAt b1 7) (bitAt b2 7) (bitAt b3 7) (bitAt b3 6) = .ok mode ∧
        a = .alarm1 v0 v1 v2 v3 mode := by
  unfold alarm1Dec
  split
  · simp only [bind_eq_ok_iff]
    constructor
    · rintro ⟨v0, h0, v1, h1, v2, h2, v3, h3, m, h4, h⟩
      cases h
      exact ⟨_, _, _, _, v0, v1, v2, v3, m, rfl, h0, h1, h2, h3, h4, rfl⟩
    · rintro ⟨_, _, _, _, v0, v1, v2, v3, m, h, h0, h1, h2, h3, h4, rfl⟩
      cases h
      exact ⟨v0, h0, v1, h1, v2, h2, v3, h3, m, h4, rfl⟩
  · rename_i h
    constructor
    · intro h'; cases h'
    · rintro ⟨_, _, _, _, _, _, _, _, _, rfl, _⟩; exact absurd rfl (h _ _ _ _)

/-- When an alarm 2 image decodes, and to what. -/
theorem alarm2Dec_eq_ok_iff {bs : List Byte} {a : AlarmSpec} :
    alarm2Dec bs = .ok a ↔
      ∃ b0 b1 b2 v0 v1 v2 mode, bs = [b0, b1, b2] ∧
        decodeField .alarm2 0 alarmMinute b0 = .ok v0 ∧ decodeField .alarm2 1 alarmHour b1 = .ok v1 ∧
        decodeField .alarm2 2 (alarmDay (bitAt b2 6)) b2 = .ok v2 ∧
        a2ModeOf (bitAt b0 7) (bitAt b1 7) (bitAt b2 7) (bitAt b2 6) = .ok mode ∧ a = .alarm2 v0 v1 v2 mode := by
  unfold alarm2Dec
  split
  · simp only [bind_eq_ok_iff]
    constructor
    · rintro ⟨v0, h0, v1, h1, v2, h2, m, h4, h⟩
      cases h
      exact ⟨_, _, _, v0, v1, v2, m, rfl, h0, h1, h2, h4, rfl⟩
    · rintro ⟨_, _, _, v0, v1, v2, m, h, h0, h1, h2, h4, rfl⟩
      cases h
      exact ⟨v0, h0, v1, h1, v2, h2, m, h4, rfl⟩
  · rename_i h
    constructor
    · intro h'; cases h'
    · rintro ⟨_, _, _, _, _, _, _, rfl, _⟩; exact absurd rfl (h _ _ _)

/-- A mode's mask bits decode to the mode. -/
theorem a1ModeOf_masks1 (m : A1Mode) :
    a1ModeOf (masks1 m).m1 (masks1 m).m2 (masks1 m).m3 (masks1 m).m4 (masks1 m).dy = .ok m := by
  cases m <;> first | rfl | (rename_i sel; cases sel <;> rfl)

theorem a2ModeOf_masks2 (m : A2Mode) :
    a2ModeOf (masks2 m).m2 (masks2 m).m3 (masks2 m).m4 (masks2 m).dy = .ok m := by
  cases m <;> first | rfl | (rename_i sel; cases sel <;> rfl)

end Sys2Proof.Machine
end

