-- ==== Sys2Proof/Laws/Decode.lean ====
section
/-! SUPPORT. The opcode map: its rows do not overlap, and the two descriptions of its bytes, by rows (R113) and by fields
(R111), agree on all 256 bytes. -/

namespace Sys2Proof

/-- No two rows of the map hold the same opcode byte. -/
theorem opcodeMap_no_overlap : opcodeMap.Pairwise (fun a b => a.op ≠ b.op) := by decide

/-- The row a byte selects is the row whose fields make that byte. -/
theorem byte_of_opcodeOf_all : ∀ b : Byte, ((opcodeOf b).all fun o => o.byte == b) = true := by decide

theorem byte_of_opcodeOf {b : Byte} {o : Opcode} (h : opcodeOf b = some o) : o.byte = b := by
  have := byte_of_opcodeOf_all b
  rw [h] at this
  simpa using this

@[simp] theorem opcodeOf_byte (o : Opcode) : opcodeOf o.byte = some o := by cases o <;> decide

/-- A byte is in no row exactly when the field check refuses it. -/
theorem opcodeAssigned_eq (b : Byte) (x : Operand) : (Request.mk b x).opcodeAssigned = (opcodeOf b).isSome := by
  have h : ∀ b : Byte, (Request.mk b .f0).opcodeAssigned = (opcodeOf b).isSome := by decide
  exact h b

/-- An operand builds an instruction exactly when it fits the operation. -/
theorem buildInstr_isSome (o : Opcode) (x : Operand) : (buildInstr o x).isSome = x.fits o := by
  cases o <;> cases x <;> rfl

/-- What builds an instruction is its opcode and its operand. -/
theorem buildInstr_some {o : Opcode} {x : Operand} {i : Instr} (h : buildInstr o x = some i) :
    i.opcode = o ∧ i.operand = x := by
  cases o <;> cases x <;> first | (cases h; exact ⟨rfl, rfl⟩) | cases h

end Sys2Proof
end

