-- ==== Sys2Proof/Laws/Memory.lean ====
section
/-! SUPPORT. The reference chip's register file: every operation keeps the canonical form, and a read after a write gives
the byte written, every other offset as before. -/

namespace Sys2Proof.Machine

theorem Memory.wf_nil : Memory.wf [] = true := rfl

theorem Memory.wfFrom_cons {lo a : Nat} {b : Byte} {rest : Memory} :
    Memory.wfFrom lo ((a, b) :: rest) = true ↔
      lo ≤ a ∧ a < Memory.size ∧ b ≠ Memory.unlisted ∧ Memory.wfFrom (a + 1) rest = true := by
  simp [Memory.wfFrom, and_assoc]

theorem Memory.wfFrom_mono {lo lo' : Nat} {m : Memory} (h : Memory.wfFrom lo m = true) (hl : lo' ≤ lo) :
    Memory.wfFrom lo' m = true := by
  cases m with
  | nil => rfl
  | cons c rest =>
    obtain ⟨a, b⟩ := c
    rw [Memory.wfFrom_cons] at h ⊢
    exact ⟨by omega, h.2⟩

theorem Memory.readByte_below {lo k : Nat} {m : Memory} (h : Memory.wfFrom lo m = true) (hk : k < lo) :
    Memory.readByte k m = Memory.unlisted := by
  induction m generalizing lo with
  | nil => rfl
  | cons c rest ih =>
    obtain ⟨a, b⟩ := c
    rw [Memory.wfFrom_cons] at h
    simp only [Memory.readByte]
    rw [if_neg (by omega)]
    exact ih h.2.2.2 (by omega)

theorem Memory.wfFrom_consCell {lo a : Nat} {b : Byte} {m : Memory} (hl : lo ≤ a) (ha : a < Memory.size)
    (h : Memory.wfFrom (a + 1) m = true) : Memory.wfFrom lo (Memory.consCell a b m) = true := by
  unfold Memory.consCell
  split
  · exact Memory.wfFrom_mono h (by omega)
  · rw [Memory.wfFrom_cons]; exact ⟨hl, ha, by assumption, h⟩

theorem Memory.wfFrom_insertCell {lo a : Nat} {b : Byte} {m : Memory} (hl : lo ≤ a) (ha : a < Memory.size)
    (h : Memory.wfFrom lo m = true) : Memory.wfFrom lo (Memory.insertCell a b m) = true := by
  induction m generalizing lo with
  | nil => exact Memory.wfFrom_consCell hl ha rfl
  | cons c rest ih =>
    obtain ⟨k, d⟩ := c
    have h' := Memory.wfFrom_cons.mp h
    simp only [Memory.insertCell]
    split
    · exact Memory.wfFrom_consCell hl ha (Memory.wfFrom_cons.mpr ⟨by omega, h'.2⟩)
    · split
      · rename_i hk
        subst hk
        exact Memory.wfFrom_consCell hl ha h'.2.2.2
      · rw [Memory.wfFrom_cons]
        exact ⟨h'.1, h'.2.1, h'.2.2.1, ih (by omega) h'.2.2.2⟩

theorem Memory.readByte_consCell {a k : Nat} {b : Byte} {m : Memory} (h : Memory.wfFrom (a + 1) m = true) :
    Memory.readByte k (Memory.consCell a b m) = if k = a then b else Memory.readByte k m := by
  unfold Memory.consCell
  split
  · rename_i hb
    split
    · rename_i hk
      rw [Memory.readByte_below h (by omega), hb]
    · rfl
  · simp only [Memory.readByte, eq_comm]

theorem Memory.readByte_insertCell {lo a k : Nat} {b : Byte} {m : Memory} (h : Memory.wfFrom lo m = true) :
    Memory.readByte k (Memory.insertCell a b m) = if k = a then b else Memory.readByte k m := by
  induction m generalizing lo with
  | nil => exact Memory.readByte_consCell rfl
  | cons c rest ih =>
    obtain ⟨j, d⟩ := c
    have h' := Memory.wfFrom_cons.mp h
    simp only [Memory.insertCell]
    split
    · exact Memory.readByte_consCell (Memory.wfFrom_cons.mpr ⟨by omega, h'.2⟩)
    · split
      · rename_i hj
        subst hj
        rw [Memory.readByte_consCell h'.2.2.2]
        simp only [Memory.readByte]
        split
        · rfl
        · rw [if_neg (by omega)]
      · simp only [Memory.readByte, ih h'.2.2.2]
        split
        · rw [if_neg (by omega)]
        · rfl

/-- A write keeps the canonical form. -/
theorem Memory.wf_writeByte {m : Memory} {a : Nat} {b : Byte} (h : m.wf = true) : (m.writeByte a b).wf = true := by
  unfold Memory.writeByte
  split
  · exact Memory.wfFrom_insertCell (Nat.zero_le _) (by assumption) h
  · exact h

/-- A read after a write inside the file. -/
theorem Memory.readByte_writeByte {m : Memory} {a k : Nat} {b : Byte} (h : m.wf = true) (ha : a < Memory.size) :
    Memory.readByte k (m.writeByte a b) = if k = a then b else Memory.readByte k m := by
  unfold Memory.writeByte
  rw [if_pos ha]
  exact Memory.readByte_insertCell h

theorem Memory.wf_writeBytes {m : Memory} {off : Nat} {data : List Byte} (h : m.wf = true) :
    (m.writeBytes off data).wf = true := by
  induction data generalizing m off with
  | nil => exact h
  | cons b rest ih => exact ih (Memory.wf_writeByte h)

/-- Serving a transaction keeps the canonical form. -/
theorem Memory.wf_serve {m : Memory} {t : Txn} (h : m.wf = true) : (m.serve t).wf = true := by
  cases t with
  | busWrite _ _ off data => exact Memory.wf_writeBytes h
  | busOpen _ => exact h
  | busRead _ _ _ _ => exact h
  | busRelease _ => exact h

/-- Bytes outside the written range are as before. -/
theorem Memory.readByte_writeBytes_outside {m : Memory} {off k : Nat} {data : List Byte} (h : m.wf = true)
    (hb : off + data.length ≤ Memory.size) (hk : k < off ∨ off + data.length ≤ k) :
    Memory.readByte k (m.writeBytes off data) = Memory.readByte k m := by
  induction data generalizing m off with
  | nil => rfl
  | cons b rest ih =>
    simp only [List.length_cons] at hb hk
    simp only [Memory.writeBytes]
    rw [ih (Memory.wf_writeByte h) (by omega) (by omega), Memory.readByte_writeByte h (by omega),
      if_neg (by omega)]

/-- Reading back the bytes just written. -/
theorem Memory.readBytes_writeBytes {m : Memory} {off : Nat} {data : List Byte} (h : m.wf = true)
    (hb : off + data.length ≤ Memory.size) :
    (m.writeBytes off data).readBytes off data.length = data := by
  induction data generalizing m off with
  | nil => rfl
  | cons b rest ih =>
    simp only [List.length_cons] at hb
    simp only [Memory.writeBytes, List.length_cons, Memory.readBytes]
    rw [Memory.readByte_writeBytes_outside (Memory.wf_writeByte h) (by omega) (by omega),
      Memory.readByte_writeByte h (by omega), if_pos rfl, ih (Memory.wf_writeByte h) (by omega)]

end Sys2Proof.Machine
end

