-- ==== Sys2Proof/Laws/State.lean ====
section
/-! SUPPORT. One lemma per field of State for each named update: what the update leaves in that field. -/

namespace Sys2Proof.Machine

variable (s : State)

/-! ### emit -/

@[simp] theorem State.emit_mode (e : Event) : (s.emit e).mode = s.mode := rfl
@[simp] theorem State.emit_session (e : Event) : (s.emit e).session = s.session := rfl
@[simp] theorem State.emit_phase (e : Event) : (s.emit e).phase = s.phase := rfl
@[simp] theorem State.emit_req (e : Event) : (s.emit e).req = s.req := rfl
@[simp] theorem State.emit_stRaw (e : Event) : (s.emit e).stRaw = s.stRaw := rfl
@[simp] theorem State.emit_img (e : Event) : (s.emit e).img = s.img := rfl
@[simp] theorem State.emit_stWb (e : Event) : (s.emit e).stWb = s.stWb := rfl
@[simp] theorem State.emit_requests (e : Event) : (s.emit e).requests = s.requests := rfl
@[simp] theorem State.emit_answers (e : Event) : (s.emit e).answers = s.answers := rfl
@[simp] theorem State.emit_events (e : Event) : (s.emit e).events = s.events ++ [e] := rfl

/-! ### respond -/

@[simp] theorem State.respond_mode (r : Response) : (s.respond r).mode = s.mode := rfl
@[simp] theorem State.respond_session (r : Response) : (s.respond r).session = s.session := rfl
@[simp] theorem State.respond_phase (r : Response) : (s.respond r).phase = s.phase := rfl
@[simp] theorem State.respond_req (r : Response) : (s.respond r).req = s.req := rfl
@[simp] theorem State.respond_stRaw (r : Response) : (s.respond r).stRaw = s.stRaw := rfl
@[simp] theorem State.respond_img (r : Response) : (s.respond r).img = s.img := rfl
@[simp] theorem State.respond_stWb (r : Response) : (s.respond r).stWb = s.stWb := rfl
@[simp] theorem State.respond_requests (r : Response) : (s.respond r).requests = s.requests := rfl
@[simp] theorem State.respond_answers (r : Response) : (s.respond r).answers = s.answers := rfl
@[simp] theorem State.respond_events (r : Response) : (s.respond r).events = s.events ++ [.respond r] := rfl

/-! ### clearScratch -/

@[simp] theorem State.clearScratch_mode : (s.clearScratch).mode = s.mode := rfl
@[simp] theorem State.clearScratch_session : (s.clearScratch).session = s.session := rfl
@[simp] theorem State.clearScratch_phase : (s.clearScratch).phase = s.phase := rfl
@[simp] theorem State.clearScratch_req : (s.clearScratch).req = none := rfl
@[simp] theorem State.clearScratch_stRaw : (s.clearScratch).stRaw = none := rfl
@[simp] theorem State.clearScratch_img : (s.clearScratch).img = none := rfl
@[simp] theorem State.clearScratch_stWb : (s.clearScratch).stWb = none := rfl
@[simp] theorem State.clearScratch_requests : (s.clearScratch).requests = s.requests := rfl
@[simp] theorem State.clearScratch_answers : (s.clearScratch).answers = s.answers := rfl
@[simp] theorem State.clearScratch_events : (s.clearScratch).events = s.events := rfl

/-! ### complete -/

@[simp] theorem State.complete_mode (r : Response) : (s.complete r).mode = s.mode := rfl
@[simp] theorem State.complete_session (r : Response) : (s.complete r).session = s.session := rfl
@[simp] theorem State.complete_phase (r : Response) : (s.complete r).phase = .idle := rfl
@[simp] theorem State.complete_req (r : Response) : (s.complete r).req = none := rfl
@[simp] theorem State.complete_stRaw (r : Response) : (s.complete r).stRaw = none := rfl
@[simp] theorem State.complete_img (r : Response) : (s.complete r).img = none := rfl
@[simp] theorem State.complete_stWb (r : Response) : (s.complete r).stWb = none := rfl
@[simp] theorem State.complete_requests (r : Response) : (s.complete r).requests = s.requests := rfl
@[simp] theorem State.complete_answers (r : Response) : (s.complete r).answers = s.answers := rfl
@[simp] theorem State.complete_events (r : Response) : (s.complete r).events = s.events ++ [.respond r] := rfl

/-! ### fail -/

@[simp] theorem State.fail_mode (op : Opcode) (e : Error) : (s.fail op e).mode = s.mode := rfl
@[simp] theorem State.fail_session (op : Opcode) (e : Error) : (s.fail op e).session = s.session := rfl
@[simp] theorem State.fail_phase (op : Opcode) (e : Error) : (s.fail op e).phase = .idle := rfl
@[simp] theorem State.fail_req (op : Opcode) (e : Error) : (s.fail op e).req = none := rfl
@[simp] theorem State.fail_stRaw (op : Opcode) (e : Error) : (s.fail op e).stRaw = none := rfl
@[simp] theorem State.fail_img (op : Opcode) (e : Error) : (s.fail op e).img = none := rfl
@[simp] theorem State.fail_stWb (op : Opcode) (e : Error) : (s.fail op e).stWb = none := rfl
@[simp] theorem State.fail_requests (op : Opcode) (e : Error) : (s.fail op e).requests = s.requests := rfl
@[simp] theorem State.fail_answers (op : Opcode) (e : Error) : (s.fail op e).answers = s.answers := rfl
@[simp] theorem State.fail_events (op : Opcode) (e : Error) : (s.fail op e).events = s.events ++ [.log ⟨op, e⟩] ++ [.respond (.err e)] := rfl

/-! ### failUnset -/

@[simp] theorem State.failUnset_mode (e : Error) : (s.failUnset e).mode = s.mode := rfl
@[simp] theorem State.failUnset_session (e : Error) : (s.failUnset e).session = s.session := rfl
@[simp] theorem State.failUnset_phase (e : Error) : (s.failUnset e).phase = .idle := rfl
@[simp] theorem State.failUnset_req (e : Error) : (s.failUnset e).req = none := rfl
@[simp] theorem State.failUnset_stRaw (e : Error) : (s.failUnset e).stRaw = none := rfl
@[simp] theorem State.failUnset_img (e : Error) : (s.failUnset e).img = none := rfl
@[simp] theorem State.failUnset_stWb (e : Error) : (s.failUnset e).stWb = none := rfl
@[simp] theorem State.failUnset_requests (e : Error) : (s.failUnset e).requests = s.requests := rfl
@[simp] theorem State.failUnset_answers (e : Error) : (s.failUnset e).answers = s.answers := rfl
@[simp] theorem State.failUnset_events (e : Error) : (s.failUnset e).events = s.events ++ (if Config.logGetTimeFailure then [Event.log ⟨.getTime, e⟩] else []) ++ [.respond .unset] := rfl

/-! ### issue -/

@[simp] theorem State.issue_mode (p : Phase) (t : Txn) : (s.issue p t).mode = s.mode := rfl
@[simp] theorem State.issue_session (p : Phase) (t : Txn) : (s.issue p t).session = s.session := rfl
@[simp] theorem State.issue_phase (p : Phase) (t : Txn) : (s.issue p t).phase = p := rfl
@[simp] theorem State.issue_req (p : Phase) (t : Txn) : (s.issue p t).req = s.req := rfl
@[simp] theorem State.issue_stRaw (p : Phase) (t : Txn) : (s.issue p t).stRaw = s.stRaw := rfl
@[simp] theorem State.issue_img (p : Phase) (t : Txn) : (s.issue p t).img = s.img := rfl
@[simp] theorem State.issue_stWb (p : Phase) (t : Txn) : (s.issue p t).stWb = s.stWb := rfl
@[simp] theorem State.issue_requests (p : Phase) (t : Txn) : (s.issue p t).requests = s.requests := rfl
@[simp] theorem State.issue_answers (p : Phase) (t : Txn) : (s.issue p t).answers = s.answers := rfl
@[simp] theorem State.issue_events (p : Phase) (t : Txn) : (s.issue p t).events = s.events ++ [.issue t] := rfl

/-! ### start -/

@[simp] theorem State.start_mode (i : Instr) (p : Phase) (t : Txn) : (s.start i p t).mode = s.mode := rfl
@[simp] theorem State.start_session (i : Instr) (p : Phase) (t : Txn) : (s.start i p t).session = s.session := rfl
@[simp] theorem State.start_phase (i : Instr) (p : Phase) (t : Txn) : (s.start i p t).phase = p := rfl
@[simp] theorem State.start_req (i : Instr) (p : Phase) (t : Txn) : (s.start i p t).req = some i := rfl
@[simp] theorem State.start_stRaw (i : Instr) (p : Phase) (t : Txn) : (s.start i p t).stRaw = s.stRaw := rfl
@[simp] theorem State.start_img (i : Instr) (p : Phase) (t : Txn) : (s.start i p t).img = s.img := rfl
@[simp] theorem State.start_stWb (i : Instr) (p : Phase) (t : Txn) : (s.start i p t).stWb = s.stWb := rfl
@[simp] theorem State.start_requests (i : Instr) (p : Phase) (t : Txn) : (s.start i p t).requests = s.requests := rfl
@[simp] theorem State.start_answers (i : Instr) (p : Phase) (t : Txn) : (s.start i p t).answers = s.answers := rfl
@[simp] theorem State.start_events (i : Instr) (p : Phase) (t : Txn) : (s.start i p t).events = s.events ++ [.issue t] := rfl

/-! ### openSession -/

@[simp] theorem State.openSession_mode (h : BusHandle) (cfg : OpenConfig) : (s.openSession h cfg).mode = .opened := rfl
@[simp] theorem State.openSession_session (h : BusHandle) (cfg : OpenConfig) : (s.openSession h cfg).session = some ⟨h, cfg.busAddress, cfg.century0, cfg.busName⟩ := rfl
@[simp] theorem State.openSession_phase (h : BusHandle) (cfg : OpenConfig) : (s.openSession h cfg).phase = s.phase := rfl
@[simp] theorem State.openSession_req (h : BusHandle) (cfg : OpenConfig) : (s.openSession h cfg).req = s.req := rfl
@[simp] theorem State.openSession_stRaw (h : BusHandle) (cfg : OpenConfig) : (s.openSession h cfg).stRaw = s.stRaw := rfl
@[simp] theorem State.openSession_img (h : BusHandle) (cfg : OpenConfig) : (s.openSession h cfg).img = s.img := rfl
@[simp] theorem State.openSession_stWb (h : BusHandle) (cfg : OpenConfig) : (s.openSession h cfg).stWb = s.stWb := rfl
@[simp] theorem State.openSession_requests (h : BusHandle) (cfg : OpenConfig) : (s.openSession h cfg).requests = s.requests := rfl
@[simp] theorem State.openSession_answers (h : BusHandle) (cfg : OpenConfig) : (s.openSession h cfg).answers = s.answers := rfl
@[simp] theorem State.openSession_events (h : BusHandle) (cfg : OpenConfig) : (s.openSession h cfg).events = s.events := rfl

/-! ### closeSession -/

@[simp] theorem State.closeSession_mode : (s.closeSession).mode = .closed := rfl
@[simp] theorem State.closeSession_session : (s.closeSession).session = none := rfl
@[simp] theorem State.closeSession_phase : (s.closeSession).phase = s.phase := rfl
@[simp] theorem State.closeSession_req : (s.closeSession).req = s.req := rfl
@[simp] theorem State.closeSession_stRaw : (s.closeSession).stRaw = s.stRaw := rfl
@[simp] theorem State.closeSession_img : (s.closeSession).img = s.img := rfl
@[simp] theorem State.closeSession_stWb : (s.closeSession).stWb = s.stWb := rfl
@[simp] theorem State.closeSession_requests : (s.closeSession).requests = s.requests := rfl
@[simp] theorem State.closeSession_answers : (s.closeSession).answers = s.answers := rfl
@[simp] theorem State.closeSession_events : (s.closeSession).events = s.events := rfl

/-! ### afterReset -/

@[simp] theorem State.afterReset_mode : (s.afterReset).mode = .closed := rfl
@[simp] theorem State.afterReset_session : (s.afterReset).session = none := rfl
@[simp] theorem State.afterReset_phase : (s.afterReset).phase = .idle := rfl
@[simp] theorem State.afterReset_req : (s.afterReset).req = none := rfl
@[simp] theorem State.afterReset_stRaw : (s.afterReset).stRaw = none := rfl
@[simp] theorem State.afterReset_img : (s.afterReset).img = none := rfl
@[simp] theorem State.afterReset_stWb : (s.afterReset).stWb = none := rfl
@[simp] theorem State.afterReset_requests : (s.afterReset).requests = s.requests := rfl
@[simp] theorem State.afterReset_answers : (s.afterReset).answers = s.answers := rfl
@[simp] theorem State.afterReset_events : (s.afterReset).events = s.events := rfl

/-! ### place -/

@[simp] theorem State.place_mode (r : Request) : (s.place r).mode = s.mode := rfl
@[simp] theorem State.place_session (r : Request) : (s.place r).session = s.session := rfl
@[simp] theorem State.place_phase (r : Request) : (s.place r).phase = .idle := rfl
@[simp] theorem State.place_req (r : Request) : (s.place r).req = none := rfl
@[simp] theorem State.place_stRaw (r : Request) : (s.place r).stRaw = none := rfl
@[simp] theorem State.place_img (r : Request) : (s.place r).img = none := rfl
@[simp] theorem State.place_stWb (r : Request) : (s.place r).stWb = none := rfl
@[simp] theorem State.place_requests (r : Request) : (s.place r).requests = r :: s.requests := rfl
@[simp] theorem State.place_answers (r : Request) : (s.place r).answers = s.answers := rfl
@[simp] theorem State.place_events (r : Request) : (s.place r).events = s.events := rfl

end Sys2Proof.Machine
end

