-- ==== Sys2Proof/Laws/Ops.lean ====
section
/-! SUPPORT. One lemma per shared operation of Ops.lean: everything it can do. -/

namespace Sys2Proof.Machine

/-! ### Reading the session, the mode check, the next answer -/

theorem State.withSession_of_some {s : State} {d : DriverSession} {k : DriverSession → Outcome}
    (h : s.session = some d) : s.withSession k = k d := by
  simp [State.withSession, h]

theorem State.withSession_next {s t : State} {k : DriverSession → Outcome} (h : s.withSession k = .next t) :
    ∃ d, s.session = some d ∧ k d = .next t := by
  unfold State.withSession at h
  split at h
  · cases h
  · exact ⟨_, by assumption, h⟩

theorem State.inOpen_of_opened {s : State} {d : DriverSession} {op : Opcode} {k : DriverSession → Outcome}
    (hm : s.mode = .opened) (hs : s.session = some d) : s.inOpen op k = k d := by
  simp [State.inOpen, hm, State.withSession_of_some hs]

theorem State.inOpen_of_closed {s : State} {op : Opcode} {k : DriverSession → Outcome} (hm : s.mode = .closed) :
    s.inOpen op k = .refused (.wrongMode op .closed) := by
  simp [State.inOpen, hm]

theorem State.inOpen_next {s t : State} {op : Opcode} {k : DriverSession → Outcome} (h : s.inOpen op k = .next t) :
    ∃ d, s.mode = .opened ∧ s.session = some d ∧ k d = .next t := by
  unfold State.inOpen at h
  split at h
  · cases h
  · obtain ⟨d, hd, hk⟩ := State.withSession_next h
    exact ⟨d, by assumption, hd, hk⟩

theorem State.withAnswer_nil {s : State} {k : Draw → State → Outcome} (h : s.answers = []) :
    s.withAnswer k = .next s := by
  simp [State.withAnswer, h]

theorem State.withAnswer_cons {s : State} {k : Draw → State → Outcome} {a : Draw} {rest : List Draw}
    (h : s.answers = a :: rest) : s.withAnswer k = k a { s with answers := rest } := by
  simp [State.withAnswer, h]

theorem State.withAnswer_next {s t : State} {k : Draw → State → Outcome} (h : s.withAnswer k = .next t) :
    (s.answers = [] ∧ t = s) ∨ ∃ a rest, s.answers = a :: rest ∧ k a { s with answers := rest } = .next t := by
  unfold State.withAnswer at h
  split at h
  · left; exact ⟨by assumption, by simpa using h.symm⟩
  · right; exact ⟨_, _, by assumption, h⟩

/-! ### Responses -/

@[simp] theorem responseOf_ok {α : Type} (wrap : α → Value) (v : α) : responseOf wrap (.ok v) = .ok (wrap v) := rfl
@[simp] theorem responseOf_error {α : Type} (wrap : α → Value) (e : Error) :
    responseOf wrap (.error e) = .err e := rfl

@[simp] theorem State.completeWith_ok {α : Type} (s : State) (op : Opcode) (wrap : α → Value) (v : α) :
    s.completeWith op wrap (.ok v) = s.complete (.ok (wrap v)) := rfl
@[simp] theorem State.completeWith_error {α : Type} (s : State) (op : Opcode) (wrap : α → Value) (e : Error) :
    s.completeWith op wrap (.error e) = s.fail op e := rfl

/-- Completing with a codec's result either completes or fails; there is no third case. -/
theorem State.completeWith_cases {α : Type} (s : State) (op : Opcode) (wrap : α → Value) (x : Except Error α) :
    (∃ v, s.completeWith op wrap x = s.complete (.ok v)) ∨ ∃ e, s.completeWith op wrap x = s.fail op e := by
  cases x with
  | ok v => exact .inl ⟨_, rfl⟩
  | error e => exact .inr ⟨_, rfl⟩

/-! ### The views of the ports -/

@[simp] theorem responsesIn_append (a b : List Event) : responsesIn (a ++ b) = responsesIn a ++ responsesIn b := by
  simp [responsesIn]
@[simp] theorem issuedIn_append (a b : List Event) : issuedIn (a ++ b) = issuedIn a ++ issuedIn b := by
  simp [issuedIn]
@[simp] theorem logsIn_append (a b : List Event) : logsIn (a ++ b) = logsIn a ++ logsIn b := by
  simp [logsIn]

@[simp] theorem responsesIn_nil : responsesIn [] = [] := rfl
@[simp] theorem responsesIn_respond (r : Response) (es : List Event) :
    responsesIn (.respond r :: es) = r :: responsesIn es := rfl
@[simp] theorem responsesIn_issue (t : Txn) (es : List Event) : responsesIn (.issue t :: es) = responsesIn es := rfl
@[simp] theorem responsesIn_log (l : LogEvent) (es : List Event) : responsesIn (.log l :: es) = responsesIn es := rfl

@[simp] theorem issuedIn_nil : issuedIn [] = [] := rfl
@[simp] theorem issuedIn_respond (r : Response) (es : List Event) : issuedIn (.respond r :: es) = issuedIn es := rfl
@[simp] theorem issuedIn_issue (t : Txn) (es : List Event) : issuedIn (.issue t :: es) = t :: issuedIn es := rfl
@[simp] theorem issuedIn_log (l : LogEvent) (es : List Event) : issuedIn (.log l :: es) = issuedIn es := rfl

@[simp] theorem logsIn_nil : logsIn [] = [] := rfl
@[simp] theorem logsIn_respond (r : Response) (es : List Event) : logsIn (.respond r :: es) = logsIn es := rfl
@[simp] theorem logsIn_issue (t : Txn) (es : List Event) : logsIn (.issue t :: es) = logsIn es := rfl
@[simp] theorem logsIn_log (l : LogEvent) (es : List Event) : logsIn (.log l :: es) = l :: logsIn es := rfl

end Sys2Proof.Machine
end

