-- ==== Sys2Proof/Laws/PerInstr.lean ====
section
/-! SUPPORT. The per-instruction family `EncodeWellFormed`: the encoder writes an assigned opcode byte and an operand of
the type that opcode fixes (spec/30_encoding.md R112, R113, R118). -/

namespace Sys2Proof.Laws.EncodeWellFormed

/-- The opcode byte the encoder writes is in the map. -/
theorem assigned (i : Instr) : (encode i).opcodeAssigned = true := by
  unfold encode
  rw [opcodeAssigned_eq, opcodeOf_byte]
  rfl

/-- The encoding of an instruction is a well-formed request. -/
def Statement (i : Instr) : Prop := (encode i).opcodeAssigned = true ∧ (encode i).operand.fits i.opcode = true

theorem bcdEnc (v : Int) : Statement (.bcdEnc v) := ⟨assigned _, rfl⟩
theorem bcdDec (b : Byte) : Statement (.bcdDec b) := ⟨assigned _, rfl⟩
theorem timeEnc (t : CalendarTime) (c0 : Int) : Statement (.timeEnc t c0) := ⟨assigned _, rfl⟩
theorem timeDec (s : List Byte) (c0 : Int) : Statement (.timeDec s c0) := ⟨assigned _, rfl⟩
theorem statusEnc (f : StatusFlags) : Statement (.statusEnc f) := ⟨assigned _, rfl⟩
theorem statusDec (s : List Byte) : Statement (.statusDec s) := ⟨assigned _, rfl⟩
theorem controlEnc (f : ControlFlags) : Statement (.controlEnc f) := ⟨assigned _, rfl⟩
theorem controlDec (s : List Byte) : Statement (.controlDec s) := ⟨assigned _, rfl⟩
theorem alarmEnc (a : AlarmSpec) : Statement (.alarmEnc a) := ⟨assigned _, rfl⟩
theorem alarmDec (s : List Byte) : Statement (.alarmDec s) := ⟨assigned _, rfl⟩
theorem tempDec (s : List Byte) : Statement (.tempDec s) := ⟨assigned _, rfl⟩
theorem openBus (cfg : OpenConfig) : Statement (.openBus cfg) := ⟨assigned _, rfl⟩
theorem getTime : Statement .getTime := ⟨assigned _, rfl⟩
theorem setTime (t : CalendarTime) : Statement (.setTime t) := ⟨assigned _, rfl⟩
theorem terminate : Statement .terminate := ⟨assigned _, rfl⟩
theorem getStatus : Statement .getStatus := ⟨assigned _, rfl⟩
theorem setStatus (f : StatusFlags) : Statement (.setStatus f) := ⟨assigned _, rfl⟩
theorem getControl : Statement .getControl := ⟨assigned _, rfl⟩
theorem setControl (f : ControlFlags) : Statement (.setControl f) := ⟨assigned _, rfl⟩
theorem getAlarm1 : Statement .getAlarm1 := ⟨assigned _, rfl⟩
theorem getAlarm2 : Statement .getAlarm2 := ⟨assigned _, rfl⟩
theorem setAlarm (a : AlarmSpec) : Statement (.setAlarm a) := ⟨assigned _, rfl⟩
theorem getTemperature : Statement .getTemperature := ⟨assigned _, rfl⟩

end Sys2Proof.Laws.EncodeWellFormed
end

