-- ==== Sys2Proof/Laws/Step.lean ====
section
/-! SUPPORT. What one step can do, said once: `step_moves` turns `step s = .next t` into one of the cases of `Moves`, with
the guards of each. Every claim about all steps is a case analysis over it. -/

namespace Sys2Proof.Machine

/-- The operation a waiting phase belongs to; none in `Idle`. -/
def Phase.opcode : Phase → Option Opcode
  | .idle => none
  | .waitOpen => some .openBus
  | .waitTimeRead => some .getTime
  | .stWaitStatusRead => some .setTime
  | .stWaitDateWrite => some .setTime
  | .stWaitStatusWrite => some .setTime
  | .auxWaitRead r => some r.opcode
  | .auxWaitWrite r => some r.opcode

/-- Accepting `i` in `s` issues `x` and waits in `p`. -/
inductive Starts (s : State) : Instr → Phase → Txn → Prop
  | opens (cfg) (hm : s.mode = .closed) : Starts s (.openBus cfg) .waitOpen (.busOpen cfg.busName)
  | getsTime (d) (hm : s.mode = .opened) (hd : s.session = some d) : Starts s .getTime .waitTimeRead (d.read .time)
  | setsTime (t d) (hm : s.mode = .opened) (hd : s.session = some d) :
      Starts s (.setTime t) .stWaitStatusRead (d.read .status)
  | reads (r : AuxRead) (d) (hm : s.mode = .opened) (hd : s.session = some d) :
      Starts s r.request (.auxWaitRead r) (d.read r.chipReg)
  | setsStatus (f d) (hm : s.mode = .opened) (hd : s.session = some d) :
      Starts s (.setStatus f) (.auxWaitWrite .status) (d.write .status [statusEnc f])
  | setsControl (f d) (hm : s.mode = .opened) (hd : s.session = some d) :
      Starts s (.setControl f) (.auxWaitWrite .control) (d.write .control [controlEnc f])
  | setsAlarm (a img d) (hm : s.mode = .opened) (hd : s.session = some d) (he : alarmEnc a = .ok img) :
      Starts s (.setAlarm a) (.auxWaitWrite (alarmTarget a)) (d.write (alarmTarget a).chipReg img)

/-- What accepting an instruction can do. -/
inductive Accepts (s : State) (i : Instr) : State → Prop
  | responds (x) (hc : i.isCodec = true) : Accepts s i (s.respond x)
  | starts (p x) (h : Starts s i p x) : Accepts s i (s.start i p x)
  | alarmRange (a x d) (hi : i = .setAlarm a) (hm : s.mode = .opened) (hd : s.session = some d)
      (he : alarmEnc a = .error x) : Accepts s i (s.fail .setAlarm x)
  | terminates (d) (hi : i = .terminate) (hm : s.mode = .opened) (hd : s.session = some d) :
      Accepts s i ((s.emit (.issue (.busRelease d.busHandle))).closeSession.complete (.ok .unit))

/-- What taking an answer `a` in a waiting phase can do; `s` is the state without the answer. -/
inductive Answers (s : State) (a : Draw) : State → Prop
  | opened (cfg h bs) (hp : s.phase = .waitOpen) (hq : s.req = some (.openBus cfg)) (ha : a = .ok h bs) :
      Answers s a ((s.openSession h cfg).complete (.ok .unit))
  | unset (e) (hp : s.phase = .waitTimeRead) : Answers s a (s.failUnset e)
  | failed (op e) (hp : s.phase.opcode = some op) (hg : s.phase ≠ .waitTimeRead) : Answers s a (s.fail op e)
  | completed (v h bs) (hp : s.phase ≠ .idle) (ho : s.phase ≠ .waitOpen) (ha : a = .ok h bs) :
      Answers s a (s.complete (.ok v))
  | writesDate (t d b h img) (hp : s.phase = .stWaitStatusRead) (hq : s.req = some (.setTime t))
      (hd : s.session = some d) (ha : a = .ok h [b]) (he : timeEnc t d.century0 = .ok img) :
      Answers s a ({ s with stRaw := some b, img := some img }.issue .stWaitDateWrite (d.write .time img.toList))
  | writesStatus (d b h bs) (hp : s.phase = .stWaitDateWrite) (hb : s.stRaw = some b) (hd : s.session = some d)
      (ha : a = .ok h bs) :
      Answers s a
        ({ s with stWb := some (b &&& 0x0F) }.issue .stWaitStatusWrite (d.write .status [b &&& 0x0F]))

/-- What a step that answers a next state has done. -/
inductive Moves (s : State) : State → Prop
  | waits (h : if s.phase = .idle then s.requests = [] else s.answers = []) : Moves s s
  | accepts (r rest i t) (hp : s.phase = .idle) (hr : s.requests = r :: rest) (hd : decode r = .instr i)
      (h : Accepts { s with requests := rest } i t) : Moves s t
  | answers (a rest t) (hp : s.phase ≠ .idle) (ha : s.answers = a :: rest)
      (h : Answers { s with answers := rest } a t) : Moves s t

/-- `exec` of an instruction, inverted. -/
theorem exec_accepts {i : Instr} {s t : State} (h : exec i s = .next t) : Accepts s i t := by
  cases i with
  | openBus cfg =>
    simp only [exec, execOpenBus] at h
    split at h <;> cases h
    exact .starts _ _ (.opens cfg (by assumption))
  | getTime =>
    obtain ⟨d, hm, hd, hk⟩ := State.inOpen_next h
    cases hk; exact .starts _ _ (.getsTime d hm hd)
  | setTime x =>
    obtain ⟨d, hm, hd, hk⟩ := State.inOpen_next h
    cases hk; exact .starts _ _ (.setsTime x d hm hd)
  | terminate =>
    obtain ⟨d, hm, hd, hk⟩ := State.inOpen_next h
    cases hk; exact .terminates d rfl hm hd
  | getStatus =>
    obtain ⟨d, hm, hd, hk⟩ := State.inOpen_next h
    cases hk; exact .starts _ _ (.reads .status d hm hd)
  | getControl =>
    obtain ⟨d, hm, hd, hk⟩ := State.inOpen_next h
    cases hk; exact .starts _ _ (.reads .control d hm hd)
  | getAlarm1 =>
    obtain ⟨d, hm, hd, hk⟩ := State.inOpen_next h
    cases hk; exact .starts _ _ (.reads .alarm1 d hm hd)
  | getAlarm2 =>
    obtain ⟨d, hm, hd, hk⟩ := State.inOpen_next h
    cases hk; exact .starts _ _ (.reads .alarm2 d hm hd)
  | getTemperature =>
    obtain ⟨d, hm, hd, hk⟩ := State.inOpen_next h
    cases hk; exact .starts _ _ (.reads .temperature d hm hd)
  | setStatus f =>
    obtain ⟨d, hm, hd, hk⟩ := State.inOpen_next h
    cases hk; exact .starts _ _ (.setsStatus f d hm hd)
  | setControl f =>
    obtain ⟨d, hm, hd, hk⟩ := State.inOpen_next h
    cases hk; exact .starts _ _ (.setsControl f d hm hd)
  | setAlarm a =>
    obtain ⟨d, hm, hd, hk⟩ := State.inOpen_next h
    cases he : alarmEnc a with
    | error x => rw [he] at hk; cases hk; exact .alarmRange a x d rfl hm hd he
    | ok img => rw [he] at hk; cases hk; exact .starts _ _ (.setsAlarm a img d hm hd he)
  | bcdEnc v => cases h; exact .responds _ rfl
  | bcdDec b => cases h; exact .responds _ rfl
  | timeEnc x c0 => cases h; exact .responds _ rfl
  | timeDec bs c0 => cases h; exact .responds _ rfl
  | statusEnc f => cases h; exact .responds _ rfl
  | statusDec bs => cases h; exact .responds _ rfl
  | controlEnc f => cases h; exact .responds _ rfl
  | controlDec bs => cases h; exact .responds _ rfl
  | alarmEnc a => cases h; exact .responds _ rfl
  | alarmDec bs => cases h; exact .responds _ rfl
  | tempDec bs => cases h; exact .responds _ rfl

theorem answerOpen_answers {a : Draw} {s t : State} (hp : s.phase = .waitOpen) (h : answerOpen a s = .next t) :
    Answers s a t := by
  unfold answerOpen at h
  split at h
  · rename_i cfg hq
    split at h <;> cases h
    · exact .opened cfg _ _ hp hq rfl
    · exact .failed _ _ (by rw [hp]; rfl) (by simp [hp])
  · cases h

theorem answerTimeRead_answers {a : Draw} {s t : State} (hp : s.phase = .waitTimeRead)
    (h : answerTimeRead a s = .next t) : Answers s a t := by
  unfold answerTimeRead at h
  split at h
  · cases h; exact .unset _ hp
  · obtain ⟨d, hd, hk⟩ := State.withSession_next h
    split at hk <;> cases hk
    · exact .completed _ _ _ (by simp [hp]) (by simp [hp]) rfl
    · exact .unset _ hp

theorem answerStatusRead_answers {a : Draw} {s t : State} (hp : s.phase = .stWaitStatusRead)
    (h : answerStatusRead a s = .next t) : Answers s a t := by
  have ho : s.phase.opcode = some .setTime := by rw [hp]; rfl
  have hg : s.phase ≠ .waitTimeRead := by simp [hp]
  unfold answerStatusRead at h
  split at h
  · cases h; exact .failed _ _ ho hg
  · rename_i hh bs
    split at h
    · cases h; exact .failed _ _ ho hg
    · rename_i f hf
      obtain ⟨b, rfl, _⟩ := statusDec_eq_ok_iff.mp hf
      obtain ⟨d, hd, hk⟩ := State.withSession_next h
      split at hk
      · rename_i x hq
        cases hk
        unfold setTimeEncode
        split
        · exact .failed (s := s) _ _ ho hg
        · exact .writesDate x d b hh _ hp hq hd rfl (by assumption)
      · cases hk

theorem answerDateWrite_answers {a : Draw} {s t : State} (hp : s.phase = .stWaitDateWrite)
    (h : answerDateWrite a s = .next t) : Answers s a t := by
  unfold answerDateWrite at h
  split at h
  · cases h; exact .failed _ _ (by rw [hp]; rfl) (by simp [hp])
  · obtain ⟨d, hd, hk⟩ := State.withSession_next h
    split at hk
    · cases hk
    · cases hk
      rw [statusClearOsf_eq]
      exact .writesStatus d _ _ _ hp (by assumption) hd rfl

theorem answerStatusWrite_answers {a : Draw} {s t : State} (hp : s.phase = .stWaitStatusWrite)
    (h : answerStatusWrite a s = .next t) : Answers s a t := by
  unfold answerStatusWrite at h
  split at h <;> cases h
  · exact .failed _ _ (by rw [hp]; rfl) (by simp [hp])
  · exact .completed _ _ _ (by simp [hp]) (by simp [hp]) rfl

theorem completeRead_cases (r : AuxRead) (bs : List Byte) (s : State) :
    (∃ v, completeRead r bs s = s.complete (.ok v)) ∨ ∃ e, completeRead r bs s = s.fail r.opcode e := by
  cases r <;> exact State.completeWith_cases ..

theorem answerAuxRead_answers {r : AuxRead} {a : Draw} {s t : State} (hp : s.phase = .auxWaitRead r)
    (h : answerAuxRead r a s = .next t) : Answers s a t := by
  have ho : s.phase.opcode = some r.opcode := by rw [hp]; rfl
  have hg : s.phase ≠ .waitTimeRead := by simp [hp]
  unfold answerAuxRead at h
  split at h
  · cases h; exact .failed _ _ ho hg
  · rename_i hh bs
    cases h
    rcases completeRead_cases r bs s with ⟨v, hv⟩ | ⟨e, he⟩
    · rw [hv]; exact .completed _ _ _ (by simp [hp]) (by simp [hp]) rfl
    · rw [he]; exact .failed _ _ ho hg

theorem answerAuxWrite_answers {r : AuxWrite} {a : Draw} {s t : State} (hp : s.phase = .auxWaitWrite r)
    (h : answerAuxWrite r a s = .next t) : Answers s a t := by
  unfold answerAuxWrite at h
  split at h <;> cases h
  · exact .failed _ _ (by rw [hp]; rfl) (by simp [hp])
  · exact .completed _ _ _ (by simp [hp]) (by simp [hp]) rfl

/-- A step in a waiting phase: the next answer taken by that phase's answer step, or nothing. -/
theorem moves_of_withAnswer {s t : State} {k : Draw → State → Outcome} (hp : s.phase ≠ .idle)
    (hk : ∀ (a : Draw) (u v : State), u.phase = s.phase → k a u = .next v → Answers u a v)
    (h : s.withAnswer k = .next t) : Moves s t := by
  rcases State.withAnswer_next h with ⟨ha, rfl⟩ | ⟨a, rest, ha, h'⟩
  · exact .waits (by simp [hp, ha])
  · exact .answers a rest t hp ha (hk a _ t rfl h')

/-- What a step can do. -/
theorem step_moves {s t : State} (h : step s = .next t) : Moves s t := by
  unfold step advance at h
  split at h
  · rename_i hp
    unfold accept at h
    split at h
    · rename_i hr; cases h; exact .waits (by simp [hp, hr])
    · rename_i r rest hr
      unfold runDecoded at h
      split at h
      · rename_i i hd; exact .accepts r rest i t hp hr hd (exec_accepts h)
      · cases h
      · cases h
  · rename_i hp
    exact moves_of_withAnswer (by simp [hp]) (fun _ _ _ hu => answerOpen_answers (by rw [hu, hp])) h
  · rename_i hp
    exact moves_of_withAnswer (by simp [hp]) (fun _ _ _ hu => answerTimeRead_answers (by rw [hu, hp])) h
  · rename_i hp
    exact moves_of_withAnswer (by simp [hp]) (fun _ _ _ hu => answerStatusRead_answers (by rw [hu, hp])) h
  · rename_i hp
    exact moves_of_withAnswer (by simp [hp]) (fun _ _ _ hu => answerDateWrite_answers (by rw [hu, hp])) h
  · rename_i hp
    exact moves_of_withAnswer (by simp [hp]) (fun _ _ _ hu => answerStatusWrite_answers (by rw [hu, hp])) h
  · rename_i r hp
    exact moves_of_withAnswer (by simp [hp]) (fun _ _ _ hu => answerAuxRead_answers (by rw [hu, hp])) h
  · rename_i r hp
    exact moves_of_withAnswer (by simp [hp]) (fun _ _ _ hu => answerAuxWrite_answers (by rw [hu, hp])) h

end Sys2Proof.Machine
end

