-- ==== Sys2Proof/Tests/Slice0.lean ====
section
/-! SUPPORT. Tests. Expected values come from spec/95_test_vectors.md (V1 to V7), spec/30_encoding.md R113 and
spec/20_memory.md R81, never from the model; and the witnesses that meet the hypotheses of the obligations. -/

namespace Sys2Proof.Tests

open Sys2Proof.Machine Sys2Proof.Claims

/-! ### Small states -/

/-- A session with century base 2000. -/
def d0 : DriverSession := ⟨⟨1⟩, ⟨0x68⟩, 2000, "i2c-1"⟩

/-- `Closed` and idle, these requests at the port. -/
def closedWith (rs : List Request) : State := { State.reset with requests := rs }

/-- `Open` and idle, these requests and answers at the ports. -/
def openWith (rs : List Request) (ans : List Draw) : State :=
  { State.reset with mode := .opened, session := some d0, requests := rs, answers := ans }

/-- `Open`, GET_STATUS in flight. -/
def statusWait (ans : List Draw) : State :=
  given (waiting (openWith [] []) .getStatus (.auxWaitRead .status) (d0.read .status)) ans

/-- The response of a codec request in `Closed`. -/
def response (i : Instr) : Option (List Response) :=
  match exec i State.reset with
  | .next s => some s.responses
  | .fault _ => none
  | .refused _ => none

/-- The transactions issued by accepting a session request in `Open`. -/
def firstTxn (i : Instr) : Option (List Txn) :=
  match exec i (openWith [] []) with
  | .next s => some s.issued
  | .fault _ => none
  | .refused _ => none

/-- The events of a step on a state, oldest first. -/
def stepEvents (s : State) : Option (List Event) :=
  match step s with
  | .next t => some t.events
  | .fault _ => none
  | .refused _ => none

/-- 2024-03-15/5 13:45:30. -/
def t0 : CalendarTime := ⟨2024, 3, 15, some 5, 13, 45, 30⟩

/-- Its image (X2). -/
def img0 : Vector Byte 7 := #v[0x30, 0x45, 0x13, 0x05, 0x15, 0x03, 0x24]

/-! ### WellFormed: the checks refuse ill-formed requests -/

theorem test_wf_unassigned_00 : (Request.mk 0x00 .f0).opcodeAssigned = false := by decide
theorem test_wf_unassigned_8C : (Request.mk 0x8C .f0).opcodeAssigned = false := by decide
theorem test_wf_unassigned_unit5 : (Request.mk 0x50 .f0).opcodeAssigned = false := by decide
theorem test_wf_assigned_8B : (Request.mk 0x8B .f0).opcodeAssigned = true := by decide
theorem test_wf_operand_misfit : (Operand.fb 7).fits .bcdEnc = false := by decide
theorem test_wf_operand_missing : Operand.f0.fits .setTime = false := by decide
theorem test_wf_operand_fits : (Operand.fi 7).fits .bcdEnc = true := by decide

/-! ### Decode: one word per constructor, written from R113, bits from R111 -/

theorem test_decode_bcdEnc : decode ⟨0b0_000_0001, .fi 42⟩ = .instr (.bcdEnc 42) := by decide
theorem test_decode_bcdDec : decode ⟨0b0_000_0010, .fb 0x59⟩ = .instr (.bcdDec 0x59) := by decide
theorem test_decode_timeEnc : decode ⟨0b0_001_0000, .fte t0 2000⟩ = .instr (.timeEnc t0 2000) := by decide
theorem test_decode_timeDec : decode ⟨0b0_001_0001, .ftd [] 2000⟩ = .instr (.timeDec [] 2000) := by decide
theorem test_decode_statusEnc :
    decode ⟨0b0_010_0000, .fsf ⟨1, 0, 0, 0, 1⟩⟩ = .instr (.statusEnc ⟨1, 0, 0, 0, 1⟩) := by decide
theorem test_decode_statusDec : decode ⟨0b0_010_0001, .fs [0x88]⟩ = .instr (.statusDec [0x88]) := by decide
theorem test_decode_controlEnc :
    decode ⟨0b0_010_0010, .fcf ⟨0, 0, 1, 3, 0, 0, 0⟩⟩ = .instr (.controlEnc ⟨0, 0, 1, 3, 0, 0, 0⟩) := by decide
theorem test_decode_controlDec : decode ⟨0b0_010_0011, .fs [0x1C]⟩ = .instr (.controlDec [0x1C]) := by decide
theorem test_decode_alarmEnc :
    decode ⟨0b0_011_0000, .fa (.alarm2 0 7 3 (.matchDHM .dayOfWeek))⟩ =
      .instr (.alarmEnc (.alarm2 0 7 3 (.matchDHM .dayOfWeek))) := by decide
theorem test_decode_alarmDec :
    decode ⟨0b0_011_0001, .fs [0x00, 0x07, 0x43]⟩ = .instr (.alarmDec [0x00, 0x07, 0x43]) := by decide
theorem test_decode_tempDec : decode ⟨0b0_100_0000, .fs [0x19, 0x80]⟩ = .instr (.tempDec [0x19, 0x80]) := by decide
theorem test_decode_open :
    decode ⟨0b1_000_0000, .fcfg ⟨"i2c-2", ⟨0x68⟩, 1900⟩⟩ = .instr (.openBus ⟨"i2c-2", ⟨0x68⟩, 1900⟩) := by decide
theorem test_decode_getTime : decode ⟨0b1_000_0001, .f0⟩ = .instr .getTime := by decide
theorem test_decode_setTime : decode ⟨0b1_000_0010, .ft t0⟩ = .instr (.setTime t0) := by decide
theorem test_decode_terminate : decode ⟨0b1_000_0011, .f0⟩ = .instr .terminate := by decide
theorem test_decode_getStatus : decode ⟨0b1_000_0100, .f0⟩ = .instr .getStatus := by decide
theorem test_decode_setStatus :
    decode ⟨0b1_000_0101, .fsf ⟨0, 0, 0, 0, 1⟩⟩ = .instr (.setStatus ⟨0, 0, 0, 0, 1⟩) := by decide
theorem test_decode_getControl : decode ⟨0b1_000_0110, .f0⟩ = .instr .getControl := by decide
theorem test_decode_setControl :
    decode ⟨0b1_000_0111, .fcf ⟨0, 0, 1, 0, 1, 0, 0⟩⟩ = .instr (.setControl ⟨0, 0, 1, 0, 1, 0, 0⟩) := by decide
theorem test_decode_getAlarm1 : decode ⟨0b1_000_1000, .f0⟩ = .instr .getAlarm1 := by decide
theorem test_decode_getAlarm2 : decode ⟨0b1_000_1001, .f0⟩ = .instr .getAlarm2 := by decide
theorem test_decode_setAlarm :
    decode ⟨0b1_000_1010, .fa (.alarm1 15 30 6 1 .matchHMS)⟩ = .instr (.setAlarm (.alarm1 15 30 6 1 .matchHMS)) := by
  decide
theorem test_decode_getTemperature : decode ⟨0b1_000_1011, .f0⟩ = .instr .getTemperature := by decide
theorem test_decode_unassigned : decode ⟨0x8C, .f0⟩ = .unassigned 0x8C := by decide
theorem test_decode_operand_type : decode ⟨0x01, .fb 7⟩ = .operandType .bcdEnc := by decide

/-! ### Table words -/

theorem test_table_word_getAlarm2 : decodeTableWord 8 0x89 = some .getAlarm2 := by decide
theorem test_table_word_statusDec : decodeTableWord 8 0x21 = some (.statusDec []) := by decide
theorem test_table_word_unassigned : decodeTableWord 8 0x12 = none := by decide
theorem test_fetch_word_runs :
    step (State.reset.withFetchWord 8 0x80) =
      exec (.openBus ⟨"", ⟨0⟩, 0⟩) State.reset := rfl
theorem test_fetch_word_codec : stepEvents (State.reset.withFetchWord 8 0x01) = some [.respond (.ok (.byte 0x00))] := by
  decide

/-! ### Assembler spellings (R121, R122, R123), from the tables of 95_test_vectors.md -/

theorem test_asm_time :
    readLine "TIME_ENC 2024-03-15/5 13:45:30 c0=2000" = some (.request ⟨0x10, .fte t0 2000⟩) := by decide
/-- Log entry 16: the short form with a month of 13 is the request that R121's record form spells. -/
theorem test_asm_time_out_of_range :
    readLine "SET_TIME 2024-13-01/- 00:00:00" = some (.request ⟨0x82, .ft ⟨2024, 13, 1, none, 0, 0, 0⟩⟩) := by decide
theorem test_asm_bytes : readLine "STATUS_DEC [0x88, 0x00] ; two bytes" = some (.request ⟨0x21, .fs [0x88, 0x00]⟩) := by
  decide
theorem test_asm_negative : readLine "BCD_ENC -1" = some (.request ⟨0x01, .fi (-1)⟩) := by decide
theorem test_asm_answer : readLine "bus: ok [0x1C, 0x00]" = some (.answer (.ok ⟨0⟩ [0x1C, 0x00])) := by decide
theorem test_asm_error : readLine "bus: err E5" = some (.answer (.err ⟨5⟩)) := by decide
theorem test_asm_unknown : readLine "GET_ALARM3" = none := by decide

/-! ### Codec requests (V1 to V6) -/

theorem test_bcdEnc : response (.bcdEnc 42) = some [.ok (.byte 0x42)] := by decide
theorem test_bcdEnc_no_wrap : response (.bcdEnc 256) = some [.err (.range .value)] := by decide
theorem test_bcdDec : response (.bcdDec 0x59) = some [.ok (.int 59)] := by decide
theorem test_bcdDec_high_nibble : response (.bcdDec 0xA0) = some [.err (.format .bcd 0)] := by decide
theorem test_timeEnc_window1 :
    response (.timeEnc ⟨2199, 12, 31, some 6, 23, 59, 59⟩ 2000) =
      some [.ok (.bytes [0x59, 0x59, 0x23, 0x06, 0x31, 0x92, 0x99])] := by decide
theorem test_timeEnc_first_error :
    response (.timeEnc ⟨2024, 1, 1, none, 24, 60, 0⟩ 2000) = some [.err (.range .minute)] := by decide
theorem test_timeDec :
    response (.timeDec [0x00, 0x00, 0x00, 0x01, 0x01, 0x81, 0x00] 1900) =
      some [.ok (.time ⟨2000, 1, 1, some 1, 0, 0, 0⟩)] := by decide
theorem test_timeDec_long :
    response (.timeDec [0x00, 0x00, 0x00, 0x01, 0x01, 0x01, 0x00, 0x00] 2000) = some [.err (.format .time 7)] := by
  decide
theorem test_statusEnc : response (.statusEnc ⟨0, 1, 1, 0, 0⟩) = some [.ok (.byte 0x03)] := by decide
theorem test_statusDec : response (.statusDec [0x88]) = some [.ok (.status ⟨1, 0, 0, 0, 1⟩)] := by decide
theorem test_statusDec_long : response (.statusDec [0x88, 0x00]) = some [.err (.format .status 1)] := by decide
theorem test_controlEnc : response (.controlEnc ⟨1, 1, 0, 2, 0, 1, 0⟩) = some [.ok (.byte 0x53)] := by decide
theorem test_controlDec : response (.controlDec [0x08]) = some [.ok (.control ⟨0, 0, 0, 1, 0, 0, 0⟩)] := by decide
theorem test_controlDec_long : response (.controlDec [0x01, 0x02]) = some [.err (.format .control 1)] := by decide
theorem test_alarmEnc :
    response (.alarmEnc (.alarm1 15 30 6 1 .matchHMS)) = some [.ok (.bytes [0x15, 0x30, 0x06, 0x81])] := by decide
theorem test_alarmEnc_weekday_8 :
    response (.alarmEnc (.alarm1 30 45 13 8 (.matchDHMS .dayOfWeek))) = some [.err (.range .dayOrDate)] := by decide
theorem test_alarmDec :
    response (.alarmDec [0x00, 0x07, 0x43]) = some [.ok (.alarm (.alarm2 0 7 3 (.matchDHM .dayOfWeek)))] := by decide
theorem test_alarmDec_illogical :
    response (.alarmDec [0x00, 0x80, 0x00, 0x01]) = some [.err (.format .alarm1 2)] := by decide
theorem test_tempDec : response (.tempDec [0xE7, 0x40]) = some [.ok (.temperature (-99))] := by decide
theorem test_tempDec_short : response (.tempDec [0x19]) = some [.err (.format .temperature 1)] := by decide

/-! ### Session requests (V7, P3, P6, R81): the first transaction, and one answer -/

theorem test_open :
    exec openDefault State.reset =
      .next (waiting State.reset openDefault .waitOpen (.busOpen "i2c-1")) := rfl
theorem test_open_answer :
    stepEvents (given (waiting State.reset openDefault .waitOpen (.busOpen "i2c-1")) [.err ⟨0⟩]) =
      some [.issue (.busOpen "i2c-1"), .log ⟨.openBus, .transport ⟨0⟩⟩, .respond (.err (.transport ⟨0⟩))] := by decide
theorem test_getTime : firstTxn .getTime = some [.busRead ⟨1⟩ ⟨0x68⟩ 0x00 7] := by decide
theorem test_getTime_in_closed : exec .getTime State.reset = .refused (.wrongMode .getTime .closed) := rfl
theorem test_setTime : firstTxn (.setTime t0) = some [.busRead ⟨1⟩ ⟨0x68⟩ 0x0F 1] := by decide
theorem test_setTime_encode :
    stepEvents (given (waiting (openWith [] []) (.setTime t0) .stWaitStatusRead (d0.read .status)) [.ok ⟨9⟩ [0x88]]) =
      some [.issue (.busRead ⟨1⟩ ⟨0x68⟩ 0x0F 1),
        .issue (.busWrite ⟨1⟩ ⟨0x68⟩ 0x00 [0x30, 0x45, 0x13, 0x05, 0x15, 0x03, 0x24])] := by decide
theorem test_terminate : firstTxn .terminate = some [.busRelease ⟨1⟩] := by decide
theorem test_getStatus : firstTxn .getStatus = some [.busRead ⟨1⟩ ⟨0x68⟩ 0x0F 1] := by decide
theorem test_getStatus_answer :
    stepEvents (statusWait [.ok ⟨9⟩ [0x88]]) =
      some [.issue (.busRead ⟨1⟩ ⟨0x68⟩ 0x0F 1), .respond (.ok (.status ⟨1, 0, 0, 0, 1⟩))] := by decide
theorem test_setStatus :
    firstTxn (.setStatus ⟨0, 0, 0, 0, 1⟩) = some [.busWrite ⟨1⟩ ⟨0x68⟩ 0x0F [0x08]] := by decide
theorem test_getControl : firstTxn .getControl = some [.busRead ⟨1⟩ ⟨0x68⟩ 0x0E 1] := by decide
theorem test_setControl :
    firstTxn (.setControl ⟨0, 0, 1, 0, 1, 0, 0⟩) = some [.busWrite ⟨1⟩ ⟨0x68⟩ 0x0E [0x24]] := by decide
theorem test_getAlarm1 : firstTxn .getAlarm1 = some [.busRead ⟨1⟩ ⟨0x68⟩ 0x07 4] := by decide
theorem test_getAlarm1_short_read :
    stepEvents { State.reset with phase := .auxWaitRead .alarm1, answers := [.ok ⟨9⟩ [0x00, 0x07, 0x43]] } =
      some [.log ⟨.getAlarm1, .format .alarm1 3⟩, .respond (.err (.format .alarm1 3))] := by decide
theorem test_getAlarm2 : firstTxn .getAlarm2 = some [.busRead ⟨1⟩ ⟨0x68⟩ 0x0B 3] := by decide
theorem test_getAlarm2_long_read :
    stepEvents { State.reset with phase := .auxWaitRead .alarm2, answers := [.ok ⟨9⟩ [0x00, 0x00, 0x00, 0x01]] } =
      some [.log ⟨.getAlarm2, .format .alarm2 3⟩, .respond (.err (.format .alarm2 3))] := by decide
theorem test_setAlarm :
    firstTxn (.setAlarm (.alarm1 30 45 13 15 (.matchDHMS .dayOfMonth))) =
      some [.busWrite ⟨1⟩ ⟨0x68⟩ 0x07 [0x30, 0x45, 0x13, 0x15]] := by decide
theorem test_setAlarm_range :
    stepEvents (openWith [⟨0x8A, .fa (.alarm2 0 24 1 .matchHM)⟩] []) =
      some [.log ⟨.setAlarm, .range .hour⟩, .respond (.err (.range .hour))] := by decide
theorem test_getTemperature : firstTxn .getTemperature = some [.busRead ⟨1⟩ ⟨0x68⟩ 0x11 2] := by decide
theorem test_getTemperature_answer :
    stepEvents { State.reset with phase := .auxWaitRead .temperature, answers := [.ok ⟨9⟩ [0xE7, 0x00]] } =
      some [.respond (.ok (.temperature (-100)))] := by decide
theorem test_refused_unassigned : step (closedWith [⟨0x8C, .f0⟩]) = .refused (.unassigned 0x8C) := rfl
theorem test_refused_operand : step (closedWith [⟨0x01, .f0⟩]) = .refused (.operandType .bcdEnc) := rfl

/-! ### Witnesses: states and operands that meet the hypotheses of the obligations -/

/-- The invariant holds in an idle open state, whatever stands at the ports. -/
theorem test_inv_open (rs : List Request) (ans : List Draw) : (openWith rs ans).Inv where
  session := by simp [openWith, State.SessionOk]
  phase := by simp [openWith, State.PhaseOk, State.reset]
  inFlight := fun h => absurd rfl h
  issued := by intro t h; cases h

/-- And in an idle closed state. -/
theorem test_inv_closed (rs : List Request) : (closedWith rs).Inv where
  session := by simp [closedWith, State.SessionOk, State.reset]
  phase := by simp [closedWith, State.PhaseOk, State.reset]
  inFlight := fun h => absurd rfl h
  issued := by intro t h; cases h

/-- And with an accessor read in flight. -/
theorem test_inv_waiting (ans : List Draw) : (statusWait ans).Inv where
  session := by simp [statusWait, given, waiting, openWith, State.SessionOk]
  phase := ⟨rfl, rfl, rfl, rfl, rfl⟩
  inFlight := fun _ => ⟨d0.read .status, rfl, rfl⟩
  issued := by
    intro t h
    rw [show (statusWait ans).issued = [d0.read .status] from rfl, List.mem_singleton] at h
    subst h
    exact ⟨.status, rfl, rfl⟩

/-- SET_TIME waiting for its status write, with everything its earlier steps left. -/
def statusWriteWait : State :=
  { openWith [] [.err ⟨5⟩] with
    phase := .stWaitStatusWrite, req := some (.setTime t0), stRaw := some 0x88, img := some img0, stWb := some 0x08,
    events := [.issue (d0.read .status), .issue (d0.write .time img0.toList), .issue (d0.write .status [0x08])] }

theorem test_inv_setTime : statusWriteWait.Inv where
  session := by simp [statusWriteWait, openWith, State.SessionOk]
  phase := ⟨rfl, t0, 0x88, img0, d0, rfl, rfl, rfl, rfl, by decide, by decide⟩
  inFlight := fun _ => ⟨d0.write .status [0x08], rfl, rfl⟩
  issued := by
    intro t h
    have hi : statusWriteWait.issued =
        [d0.read .status, d0.write .time img0.toList, d0.write .status [0x08]] := rfl
    rw [hi] at h
    simp only [List.mem_cons, List.not_mem_nil, or_false] at h
    rcases h with rfl | rfl | rfl
    · exact ⟨.status, rfl, rfl⟩
    · exact ⟨.time, by decide, rfl, rfl⟩
    · exact ⟨.status, by decide, rfl, rfl⟩

/-- StepKeepsInvariant, NoFaultUnderInvariant, OneTransactionAtATime, ResetInMidRunIssuesNothing, PhaseMovesFollowTheTable. -/
theorem test_hyp_step_next : ∃ t, (statusWait [.ok ⟨9⟩ [0x88]]).Inv ∧ step (statusWait [.ok ⟨9⟩ [0x88]]) = .next t :=
  ⟨_, test_inv_waiting _, rfl⟩

/-- RefusedExactlyWhenRequestHasNoMeaning, each of its three cases, and a step that is not refused. -/
theorem test_hyp_refused_unassigned : ∃ x, step (closedWith [⟨0x00, .f0⟩]) = .refused x := ⟨_, rfl⟩
theorem test_hyp_refused_misfit : ∃ x, step (closedWith [⟨0x82, .f0⟩]) = .refused x := ⟨_, rfl⟩
theorem test_hyp_refused_mode : ∃ x, step (closedWith [⟨0x83, .f0⟩]) = .refused x := ⟨_, rfl⟩
theorem test_hyp_not_refused : ∃ t, step (closedWith [⟨0x01, .fi 100⟩]) = .next t := ⟨_, rfl⟩

/-- RunIsRefusedExactlyAtARequestWithoutMeaning: its state in each of the three cases, and one a
run reaches. -/
theorem test_hyp_meaningless_unassigned : AtRequestWithoutMeaning (closedWith [⟨0x8C, .f0⟩]) :=
  ⟨rfl, _, _, rfl, .inl (by decide)⟩
theorem test_hyp_meaningless_misfit : AtRequestWithoutMeaning (closedWith [⟨0x82, .f0⟩]) :=
  ⟨rfl, _, _, rfl, .inr (.inl ⟨.setTime, by decide, by decide⟩)⟩
theorem test_hyp_meaningless_mode : AtRequestWithoutMeaning (closedWith [⟨0x83, .f0⟩]) :=
  ⟨rfl, _, _, rfl, .inr (.inr ⟨.terminate, by decide, by decide⟩)⟩
theorem test_hyp_run_to_meaningless :
    (openWith [⟨0x83, .f0⟩, ⟨0x83, .f0⟩] []).Inv ∧
      ∃ t, Host.Core.run core 1 (openWith [⟨0x83, .f0⟩, ⟨0x83, .f0⟩] []) = .next t ∧ AtRequestWithoutMeaning t :=
  ⟨test_inv_open _ _, _, rfl, rfl, _, _, rfl, .inr (.inr ⟨.terminate, by decide, by decide⟩)⟩

/-- OneResponsePerAcceptedRequest. -/
theorem test_hyp_run : ∃ t, Host.Core.run core 2 (openWith [⟨0x84, .f0⟩] [.err ⟨3⟩]) = .next t ∧ t.requests = [] :=
  ⟨_, rfl, rfl⟩

/-- WrongModeRequestsAreRefused, each clause. -/
theorem test_hyp_wrong_mode_closed :
    Instr.isCodec .getTime = false ∧ Instr.opcode .getTime ≠ .openBus ∧ State.reset.mode = .closed := by decide
theorem test_hyp_wrong_mode_open : openDefault.opcode = .openBus ∧ (openWith [] []).mode = .opened := by decide
theorem test_hyp_codec : Instr.isCodec (.bcdEnc 0) = true := by decide

/-- DecodedRequestsAreEncodings, OtherOpcodesAreUnassigned: see the decode tests. CodecRequestsOnlyRespond: -/
theorem test_hyp_codec_bit : (encode (.tempDec [])).op.extractLsb' 7 1 = 0#1 := by decide

/-- IdleStepRunsTheDecodedRequest. -/
theorem test_hyp_idle_step :
    (closedWith [⟨0x40, .fs []⟩]).phase = .idle ∧ (closedWith [⟨0x40, .fs []⟩]).requests = [⟨0x40, .fs []⟩] ∧
      decode ⟨0x40, .fs []⟩ = .instr (.tempDec []) := by decide

/-- BusyPortHoldsRequests: a busy step, an idle step with a request, and one without. -/
theorem test_hyp_busy : (statusWait []).phase ≠ .idle ∧ step (statusWait []) = .next (statusWait []) := ⟨by decide, rfl⟩
theorem test_hyp_idle_empty : step (openWith [] []) = .next (openWith [] []) := rfl

/-- OnlyOpenWritesTheSession, OnlyOpenAndTerminateWriteMode: OPEN's answer, and TERMINATE. -/
theorem test_hyp_open_writes :
    ∃ t, step (given (waiting State.reset openDefault .waitOpen (.busOpen "i2c-1")) [.ok ⟨1⟩ []]) = .next t ∧
      t.session = some d0 ∧ t.mode = .opened := ⟨_, rfl, rfl, rfl⟩
theorem test_hyp_terminate_writes :
    ∃ t, step (openWith [⟨0x83, .f0⟩] []) = .next t ∧ t.session = none ∧ t.mode = .closed := ⟨_, rfl, rfl, rfl⟩

/-- ErrorsAreLoggedOnceBeforeTheResponse: a waiting request's error (also FailedTransactionEndsTheRequest), SET_ALARM's, a
codec's, and a failed GET_TIME. -/
theorem test_hyp_waiting_error :
    statusWriteWait.Inv ∧ statusWriteWait.phase ≠ .idle ∧ statusWriteWait.answers = [.err ⟨5⟩] ∧
      ∃ t, step statusWriteWait = .next t ∧ .respond (.err (.transport ⟨5⟩)) ∈ t.events :=
  ⟨test_inv_setTime, by decide, rfl, _, rfl, by decide⟩
theorem test_hyp_setAlarm_error :
    ∃ t, step (openWith [⟨0x8A, .fa (.alarm2 0 0 0 .everyMinute)⟩] []) = .next t ∧
      t.events = failing .setAlarm (.range .dayOrDate) := ⟨_, rfl, by decide⟩
theorem test_hyp_codec_error :
    ∃ t, step (closedWith [⟨0x01, .fi 100⟩]) = .next t ∧ t.events = [.respond (.err (.range .value))] :=
  ⟨_, rfl, by decide⟩

/-- EveryRequestCompletes. -/
theorem test_hyp_completes :
    (openWith [⟨0x82, .ft t0⟩] [.ok ⟨9⟩ [0x88], .ok ⟨9⟩ [], .ok ⟨9⟩ []]).Inv ∧
    (openWith [⟨0x82, .ft t0⟩] [.ok ⟨9⟩ [0x88], .ok ⟨9⟩ [], .ok ⟨9⟩ []]).phase = .idle ∧
      decode ⟨0x82, .ft t0⟩ = .instr (.setTime t0) ∧ Instr.legalIn (.setTime t0) .opened = true ∧
      mostAnswers (.setTime t0) ≤ (openWith [⟨0x82, .ft t0⟩] [.ok ⟨9⟩ [0x88], .ok ⟨9⟩ [], .ok ⟨9⟩ []]).answers.length :=
  ⟨test_inv_open _ _, by decide⟩
theorem test_hyp_completes_bounds :
    mostAnswers (.setTime t0) = 3 ∧ mostAnswers .getTime = 1 ∧ mostAnswers .terminate = 0 ∧ mostAnswers (.bcdEnc 0) = 0 ∧
      mostAnswers .getStatus ≤ (openWith [⟨0x84, .f0⟩] [.err ⟨3⟩]).answers.length ∧
      mostAnswers .terminate ≤ (openWith [⟨0x83, .f0⟩] []).answers.length := by decide

/-- The BCD statements, at the ends of their ranges. -/
theorem test_hyp_bcd_enc : bcdEnc 0 = .ok 0x00 ∧ bcdEnc 99 = .ok 0x99 ∧ bcdEnc 100 = .error (.range .value) ∧
    bcdEnc (-1) = .error (.range .value) := by decide
theorem test_hyp_bcd_dec : bcdDec 0x99 = some 99 ∧ bcdDec 0x9A = none ∧ bcdDec 0xA9 = none := by decide
theorem test_hyp_bcd_field : bcdDec (0x8A &&& timeSecond.val) = none := by decide

/-- The time statements: a valid time at each end of the window, and a base that is no multiple of 100. -/
theorem test_hyp_valid_low : Valid ⟨2000, 1, 1, none, 0, 0, 0⟩ 2000 := by
  refine ⟨by decide, by decide, by decide, fun w h => (by cases h), by decide, by decide, by decide⟩
theorem test_hyp_valid_high : Valid ⟨2149, 12, 31, some 7, 23, 59, 59⟩ 1950 := by
  refine ⟨by decide, by decide, by decide, fun w h => ?_, by decide, by decide, by decide⟩
  cases h; decide
theorem test_hyp_time_accepted :
    timeDec img0.toList 2000 = .ok t0 ∧ timeEnc t0 2000 = .ok img0 ∧ firstBadTimeField t0 2000 = none := by decide
theorem test_hyp_century_base :
    timeEnc ⟨2024, 13, 1, none, 0, 0, 0⟩ 2000 = .error (.range .month) ∧ FieldName.month ≠ .year := by decide

/-- The lengths the one-register decoders refuse. -/
theorem test_hyp_lengths : ([] : List Byte).length ≠ 1 ∧ [(0x88 : Byte), 0x00].length ≠ 1 ∧
    [(0x19 : Byte)].length ≠ 2 := by decide
theorem test_hyp_status_accepted : statusDec [0xFF] = .ok ⟨1, 1, 1, 1, 1⟩ := by decide
theorem test_hyp_control_accepted : controlDec [0x80] = .ok ⟨0, 0, 0, 0, 0, 0, 1⟩ := by decide

/-- The alarm round trips: a day mode, and an image whose DY bit is dropped (V5.2). -/
theorem test_hyp_alarm_enc :
    alarmEnc (.alarm1 30 45 13 7 (.matchDHMS .dayOfWeek)) = .ok [0x30, 0x45, 0x13, 0x47] := by decide
theorem test_hyp_alarm_dec :
    alarmDec [0x80, 0x80, 0x80, 0xC1] = .ok (.alarm1 0 0 0 1 .everySecond) ∧
      clearDy [0x80, 0x80, 0x80, 0xC1] = [0x80, 0x80, 0x80, 0x81] := by decide

/-- TempDecIsBijectiveOnCanonicalImages, at both ends (V6). -/
theorem test_hyp_temp_ends : tempDec [0x80, 0x00] = .ok (-512) ∧ tempDec [0x7F, 0xC0] = .ok 511 := by decide

/-- The session statements: a closed state, an open state with its session, and what SET_TIME needs. -/
theorem test_hyp_closed : State.reset.mode = .closed := rfl
theorem test_hyp_open : (openWith [] []).mode = .opened ∧ (openWith [] []).session = some d0 := by decide
theorem test_hyp_setTime :
    (openWith [] []).mode = .opened ∧ (openWith [] []).session = some d0 ∧ timeEnc t0 d0.century0 = .ok img0 := by decide
theorem test_hyp_setTime_range : firstBadTimeField ⟨2200, 1, 1, none, 0, 0, 0⟩ d0.century0 = some .year := by decide
/-- GET_TIME waiting, its answer this image. -/
def timeWait (bs : List Byte) : State :=
  given (waiting (openWith [] []) .getTime .waitTimeRead (d0.read .time)) [.ok ⟨9⟩ bs]
theorem test_hyp_corrupt_zero :
    (timeWait (List.replicate 7 0)).phase = .waitTimeRead ∧ (timeWait (List.replicate 7 0)).session = some d0 ∧
      (timeWait (List.replicate 7 0)).answers = [.ok ⟨9⟩ (List.replicate 7 0)] := by decide
theorem test_hyp_corrupt_0A :
    (timeWait [0x0A, 0x00, 0x00, 0x01, 0x01, 0x01, 0x24]).phase = .waitTimeRead ∧
      0x0A ∈ ([0x0A, 0x00, 0x00, 0x01, 0x01, 0x01, 0x24] : List Byte) ∧
      0x0A ∈ ([0x00, 0x00, 0x00, 0x01, 0x01, 0x01, 0x0A] : List Byte) := by decide
theorem test_hyp_setAlarm1 : firstBadAlarmField (.alarm1 59 59 23 31 (.matchDHMS .dayOfMonth)) = none := by decide
theorem test_hyp_setAlarm2 : firstBadAlarmField (.alarm2 0 0 7 (.matchDHM .dayOfWeek)) = none := by decide
theorem test_hyp_setAlarm_range :
    firstBadAlarmField (.alarm2 0 0 8 (.matchDHM .dayOfWeek)) = some .dayOrDate := by decide

/-- AccessorsKeepTheSession: each of its three cases. -/
theorem test_hyp_accessor_read :
    ∃ t, step (statusWait [.err ⟨1⟩]) = .next t ∧ (statusWait [.err ⟨1⟩]).phase = .auxWaitRead .status := ⟨_, rfl, rfl⟩
theorem test_hyp_accessor_write :
    ∃ t, step { openWith [] [.ok ⟨9⟩ []] with phase := .auxWaitWrite .control } = .next t := ⟨_, rfl⟩
theorem test_hyp_accessor_accept :
    ∃ t, step (openWith [⟨0x84, .f0⟩] []) = .next t ∧ decode ⟨0x84, .f0⟩ = .instr .getStatus := ⟨_, rfl, by decide⟩

/-- WriteBackFailureLeavesDateWritten: the start of P2's line 2. -/
def rig0 : Rig := ⟨openWith [⟨0x82, .ft t0⟩] [], [(0x03, 0x01), (0x04, 0x01), (0x05, 0x01), (0x0F, 0x88)], ⟨1⟩,
  [none, none, some ⟨5⟩]⟩
theorem test_hyp_write_back :
    rig0.block.phase = .idle ∧ rig0.block.mode = .opened ∧ rig0.block.session = some d0 ∧
      rig0.block.requests = [⟨0x82, .ft t0⟩] ∧ decode ⟨0x82, .ft t0⟩ = .instr (.setTime t0) ∧
      timeEnc t0 d0.century0 = .ok img0 ∧ rig0.regs.wf = true ∧ rig0.script = [none, none, some ⟨5⟩] := by decide

/-! ### The reference chip (R97) -/

theorem test_chip_write_keeps_order : Memory.writeByte [(3, 1), (5, 1)] 4 0x10 = [(3, 1), (4, 0x10), (5, 1)] := by decide
theorem test_chip_write_zero_unlists : Memory.writeByte [(3, 1), (5, 1)] 3 0x00 = [(5, 1)] := by decide

end Sys2Proof.Tests
end

section
/-! PROOFS. The register map (spec/20_memory.md R81): its regions stand in the order of their offsets. -/

namespace Sys2Proof.Machine

/-- No two rows of R81's table share an offset. -/
theorem ChipReg.offset_toNat_injective : Function.Injective fun r : ChipReg => r.offset.toNat := by
  intro r q h
  revert h
  cases r <;> cases q <;> decide

/-- A region ends no later than any region of a higher offset begins. -/
theorem ChipReg.end_le_offset_of_lt {r q : ChipReg} (h : r.offset.toNat < q.offset.toNat) :
    r.offset.toNat + r.length ≤ q.offset.toNat := by
  revert h
  cases r <;> cases q <;> decide

/-- Every region lies below offset 0x10, or from 0x11 to 0x12. -/
theorem ChipReg.region_avoids_gaps (r : ChipReg) :
    r.offset.toNat + r.length ≤ 0x10 ∨ 0x11 ≤ r.offset.toNat ∧ r.offset.toNat + r.length ≤ 0x13 := by
  cases r <;> decide

/-- Settles O56: different registers have different offsets, and the one of the lower offset ends before the other begins. -/
theorem registerMapRegionsAreDisjoint : Obligations.RegisterMapRegionsAreDisjoint := by
  refine ⟨rfl, fun r q hne => ?_, fun r a ha => ?_⟩
  · obtain hlt | hgt := lt_or_gt_of_ne (ChipReg.offset_toNat_injective.ne hne)
    · exact .inl (ChipReg.end_le_offset_of_lt hlt)
    · exact .inr (ChipReg.end_le_offset_of_lt hgt)
  · obtain hlow | ⟨hstart, hend⟩ := r.region_avoids_gaps <;> omega

end Sys2Proof.Machine
end

section
/-! PROOFS. The codec requests (spec/30_encoding.md R111, R115): bit 7 of the opcode byte marks them, and each is a pure
computation whose result is put out as a response. -/

namespace Sys2Proof

/-- Bit 7 of the opcode byte is the field `S` (R111). -/
theorem Opcode.extractLsb'_byte_seven (o : Opcode) : o.byte.extractLsb' 7 1 = o.fields.1 := by
  cases o <;> rfl

/-- The opcode byte alone tells the codec requests from the session requests. -/
theorem Instr.isCodec_iff_encode_bit_seven (i : Instr) :
    i.isCodec = true ↔ (encode i).op.extractLsb' 7 1 = 0#1 := by
  have hbit : (encode i).op.extractLsb' 7 1 = i.opcode.fields.1 := i.opcode.extractLsb'_byte_seven
  rw [hbit]
  exact beq_iff_eq

namespace Machine

/-- Each codec request responds with its codec's result, which is computed from the operand before any state is given. -/
theorem exec_eq_respond_of_isCodec {i : Instr} (h : i.isCodec = true) : ∃ r, ∀ s, exec i s = .next (s.respond r) := by
  cases i with
  | bcdEnc v => exact ⟨responseOf .byte (bcdEnc v), fun _ => rfl⟩
  | bcdDec b => exact ⟨responseOf .int (bcdDecReported b), fun _ => rfl⟩
  | timeEnc t c0 => exact ⟨responseOf imageValue (timeEnc t c0), fun _ => rfl⟩
  | timeDec bs c0 => exact ⟨responseOf .time (timeDec bs c0), fun _ => rfl⟩
  | statusEnc f => exact ⟨.ok (.byte (statusEnc f)), fun _ => rfl⟩
  | statusDec bs => exact ⟨responseOf .status (statusDec bs), fun _ => rfl⟩
  | controlEnc f => exact ⟨.ok (.byte (controlEnc f)), fun _ => rfl⟩
  | controlDec bs => exact ⟨responseOf .control (controlDec bs), fun _ => rfl⟩
  | alarmEnc a => exact ⟨responseOf .bytes (alarmEnc a), fun _ => rfl⟩
  | alarmDec bs => exact ⟨responseOf .alarm (alarmDec bs), fun _ => rfl⟩
  | tempDec bs => exact ⟨responseOf .temperature (tempDec bs), fun _ => rfl⟩
  | _ => cases h

/-- A response is the output of that one event, and no other change. -/
theorem State.respond_eq_put (s : State) (r : Response) : s.respond r = Claims.put s [.respond r] := rfl

/-- Settles O25: bit 7 clear makes the request a codec request, and a codec request only responds. -/
theorem codecRequestsOnlyRespond : Obligations.CodecRequestsOnlyRespond := by
  intro i hbit
  obtain ⟨r, hexec⟩ := exec_eq_respond_of_isCodec (i.isCodec_iff_encode_bit_seven.mpr hbit)
  exact ⟨r, fun s => by rw [hexec s, s.respond_eq_put]⟩

end Machine
end Sys2Proof
end

section
/-! PROOFS. Decoding undoes encoding (spec/30_encoding.md R112, R116), in the form of the operations' "Encoding" rules. -/

namespace Sys2Proof

/-- An instruction's own opcode and operand build it again. -/
theorem buildInstr_opcode_operand (i : Instr) : buildInstr i.opcode i.operand = some i := by
  cases i <;> rfl

theorem Instr.decode_encode (i : Instr) : decode (encode i) = .instr i := by
  simp only [decode, encode, opcodeOf_byte, buildInstr_opcode_operand]

/-- What an operation's "Encoding" rule says follows from the row of its opcode byte. -/
theorem Instr.encodes_of_opcodeOf {i : Instr} {op : Byte} (h : opcodeOf op = some i.opcode) :
    Claims.Encodes i op i.operand := by
  obtain rfl := byte_of_opcodeOf h
  exact ⟨rfl, i.decode_encode⟩

end Sys2Proof
end

section
/-! PROOFS. The BCD codec (spec/40_bcd.md): `bcdDec` in terms of the two nibbles of the byte, what the two requests put
out, and the round trips. -/

namespace Sys2Proof.Machine

/-! ### The two nibbles of a byte -/

theorem toNat_highNibble (b : Byte) : (b.extractLsb' 4 4).toNat = b.toNat / 16 := by
  rw [BitVec.extractLsb'_toNat, Nat.shiftRight_eq_div_pow]
  omega

theorem toNat_lowNibble (b : Byte) : (b.extractLsb' 0 4).toNat = b.toNat % 16 :=
  BitVec.extractLsb'_toNat ..

/-! ### When BCD decoding and encoding succeed, and when they fail -/

/-- R145, in the arithmetic of the byte's value. -/
theorem bcdDec_eq_ite (b : Byte) :
    bcdDec b = if 9 < b.toNat / 16 ∨ 9 < b.toNat % 16 then none
      else some (10 * (b.toNat / 16) + b.toNat % 16 : Int) := by
  simp only [bcdDec, toNat_highNibble, toNat_lowNibble]
  rfl

theorem bcdDec_eq_none {b : Byte} (h : 9 < b.toNat / 16 ∨ 9 < b.toNat % 16) : bcdDec b = none := by
  rw [bcdDec_eq_ite, if_pos h]

theorem bcdDec_eq_some {b : Byte} (hhi : b.toNat / 16 ≤ 9) (hlo : b.toNat % 16 ≤ 9) :
    bcdDec b = some (10 * (b.toNat / 16) + b.toNat % 16 : Int) := by
  rw [bcdDec_eq_ite, if_neg (by omega)]

theorem bcdDec_isSome (b : Byte) : (bcdDec b).isSome = decide (b.toNat / 16 ≤ 9 ∧ b.toNat % 16 ≤ 9) := by
  by_cases h : b.toNat / 16 ≤ 9 ∧ b.toNat % 16 ≤ 9
  · rw [bcdDec_eq_some h.1 h.2, decide_eq_true h]; rfl
  · rw [bcdDec_eq_none (by omega), decide_eq_false h]; rfl

theorem bcdEnc_eq_ok {v : Int} (h0 : 0 ≤ v) (h1 : v ≤ 99) : bcdEnc v = .ok (bcdByte v) :=
  bcdEnc_eq_ok_iff.mpr ⟨h0, h1, rfl⟩

theorem bcdEnc_eq_error {v : Int} (h : v < 0 ∨ 99 < v) : bcdEnc v = .error (.range .value) := if_pos h

/-- The nibbles of a packed byte are the digits: they are the only two digits that decode to `v`. -/
theorem bcdByte_nibbles {v : Int} (h0 : 0 ≤ v) (h1 : v ≤ 99) :
    ((bcdByte v).toNat / 16 : Nat) = v / 10 ∧ ((bcdByte v).toNat % 16 : Nat) = v % 10 := by
  have hdec := bcdDec_bcdByte h0 h1
  rw [bcdDec_eq_ite] at hdec
  split at hdec
  · cases hdec
  · have hv := Option.some.inj hdec
    omega

/-- A byte that is no BCD number makes a field fail with the codec's own register and index. -/
theorem decodeField_of_bcdDec_eq_none {reg : RegName} {idx : Nat} {row : FieldRow} {b : Byte}
    (h : bcdDec (b &&& row.val) = none) : decodeField reg idx row b = .error (.format reg idx) := by
  cases hf : decodeField reg idx row b with
  | error e => rw [decodeField_eq_error hf]
  | ok v =>
    obtain ⟨_, hsome, _⟩ := decodeField_eq_ok_iff.mp hf
    rw [h] at hsome
    cases hsome

/-! ### The two requests -/

theorem exec_bcdEnc (v : Int) (s : State) :
    exec (.bcdEnc v) s = .next (Claims.put s [.respond (responseOf .byte (bcdEnc v))]) := rfl

theorem exec_bcdDec (b : Byte) (s : State) :
    exec (.bcdDec b) s = .next (Claims.put s [.respond (responseOf .int (bcdDecReported b))]) := rfl

theorem bcdDecReported_of_some {b : Byte} {v : Int} (h : bcdDec b = some v) : bcdDecReported b = .ok v := by
  rw [bcdDecReported, h]

theorem bcdDecReported_of_none {b : Byte} (h : bcdDec b = none) : bcdDecReported b = .error (.format .bcd 0) := by
  rw [bcdDecReported, h]

/-- Settles O26: the request responds with `bcdEnc`'s result, and a packed byte's nibbles are the digits. -/
theorem bcdEncPacksDigitsOrRangeError : Obligations.BcdEncPacksDigitsOrRangeError := by
  refine fun v s => ⟨Instr.encodes_of_opcodeOf (i := .bcdEnc v) rfl, fun h0 h1 => ⟨bcdByte v, ?_, ?_⟩, fun h => ?_⟩
  · rw [exec_bcdEnc, bcdEnc_eq_ok h0 h1, responseOf_ok]
  · rw [toNat_highNibble, toNat_lowNibble]
    exact bcdByte_nibbles h0 h1
  · rw [exec_bcdEnc, bcdEnc_eq_error h, responseOf_error]

/-- Settles O27: the request reports `bcdDec`'s result, which the two nibbles decide. -/
theorem bcdDecReadsDigitsOrFormatError : Obligations.BcdDecReadsDigitsOrFormatError := by
  refine ⟨fun _ _ _ _ => decodeField_of_bcdDec_eq_none, fun b s =>
    ⟨Instr.encodes_of_opcodeOf (i := .bcdDec b) rfl, fun hhi hlo => ?_, fun h => ?_⟩⟩
  · rw [exec_bcdDec, bcdDecReported_of_some (bcdDec_eq_some hhi hlo), responseOf_ok]
  · rw [exec_bcdDec, bcdDecReported_of_none (bcdDec_eq_none h), responseOf_error]

/-! ### The round trips and the count -/

/-- The bytes with two decimal digits as nibbles are as many as the numbers 0..99: reading the digits and R141's
`v + 6 × (v div 10)` are inverse to each other. -/
theorem card_filter_nibbles_le_nine :
    ((Finset.range 256).filter fun n => n / 16 ≤ 9 ∧ n % 16 ≤ 9).card = 100 := by
  rw [← Finset.card_range 100]
  apply Finset.card_bij' (fun n _ => 10 * (n / 16) + n % 16) (fun v _ => v + 6 * (v / 10)) <;>
    simp only [Finset.mem_filter, Finset.mem_range] <;> omega

theorem length_filter_bcdDec_isSome :
    ((List.range 256).filter fun n => (bcdDec (BitVec.ofNat 8 n)).isSome).length = 100 := by
  have hdigits : ∀ n ∈ List.range 256,
      (bcdDec (BitVec.ofNat 8 n)).isSome = decide (n / 16 ≤ 9 ∧ n % 16 ≤ 9) := fun n hn => by
    rw [bcdDec_isSome, BitVec.toNat_ofNat, Nat.mod_eq_of_lt (List.mem_range.mp hn)]
  rw [List.filter_congr hdigits]
  exact card_filter_nibbles_le_nine

/-- Settles O28: each direction is a law of the codec, and `length_filter_bcdDec_isSome` counts the bytes. -/
theorem bcdRoundTripsBothWays : Obligations.BcdRoundTripsBothWays := by
  refine ⟨fun v h0 h1 => ⟨bcdByte v, bcdEnc_eq_ok h0 h1, bcdDec_bcdByte h0 h1⟩, fun b v h => ?_,
    length_filter_bcdDec_isSome⟩
  obtain ⟨hb, h0, h1⟩ := bcdByte_of_bcdDec h
  exact ⟨bcdEnc_eq_ok_iff.mpr ⟨h0, h1, hb.symm⟩, h0, h1⟩

end Sys2Proof.Machine
end

section
/-! PROOFS. The parts the register codecs share (spec/41_time_codec.md R166, R168, R170): a chain of checks as the first
failure or a value, and one field of an image byte, in both directions. -/

namespace Sys2Proof.Machine

open Claims

/-! ### A chain of checks -/

/-- What a chain of checks comes to: the error of the first check that failed, or the value. -/
def failOr {α β : Type} (mk : β → Error) (bad : Option β) (x : α) : Except Error α :=
  match bad with
  | some i => .error (mk i)
  | none => .ok x

@[simp] theorem failOr_some {α β : Type} (mk : β → Error) (i : β) (x : α) : failOr mk (some i) x = .error (mk i) := rfl

@[simp] theorem failOr_none {α β : Type} (mk : β → Error) (x : α) : failOr mk none x = .ok x := rfl

theorem failOr_range_eq_error_iff {α : Type} {bad : Option FieldName} {x : α} {f : FieldName} :
    failOr .range bad x = .error (.range f) ↔ bad = some f := by
  cases bad <;> simp

theorem map_failOr {α γ β : Type} (g : α → γ) (mk : β → Error) (bad : Option β) (x : α) :
    (failOr mk bad x).map g = failOr mk bad (g x) := by
  cases bad <;> rfl

/-- A range check in front of a chain puts its field in front of the chain's failures (R161, R231). -/
theorem checkRange_bind_eq_failOr {α : Type} {lo v hi : Int} {f : FieldName} {k : Unit → Except Error α}
    {bad : Option FieldName} {x : α} (hk : k () = failOr .range bad x) :
    (checkRange lo v hi f >>= k) = failOr .range (if v < lo ∨ hi < v then some f else bad) x := by
  by_cases hv : lo ≤ v ∧ v ≤ hi
  · rw [checkRange_of_mem hv, if_neg (by omega)]
    exact hk
  · rw [checkRange_of_not_mem hv, if_pos (by omega)]
    rfl

/-! ### One field of an image byte against the tables -/

/-- A layout row as the statements write it, in numbers. -/
def FieldRow.spec (row : FieldRow) : FieldSpec := ⟨row.res.toNat, row.val.toNat, row.lo, row.hi⟩

/-- What a byte decodes to, in the statements' own reading of its digits. -/
theorem bcdDec_eq_some_iff_digits {b : Byte} {v : Int} :
    bcdDec b = some v ↔ b.toNat / 16 ≤ 9 ∧ b.toNat % 16 ≤ 9 ∧ v = digits b.toNat := by
  constructor
  · intro h
    have hsome := bcdDec_isSome b
    rw [h, Option.isSome_some, eq_comm, decide_eq_true_eq] at hsome
    rw [bcdDec_eq_some hsome.1 hsome.2] at h
    exact ⟨hsome.1, hsome.2, (Option.some.inj h).symm⟩
  · rintro ⟨hhi, hlo, rfl⟩
    exact bcdDec_eq_some hhi hlo

theorem fieldSpec_accepts_iff {f : FieldSpec} {b : Byte} :
    f.accepts b = true ↔ b.toNat &&& f.res = 0 ∧ (b.toNat &&& f.val) / 16 ≤ 9 ∧ (b.toNat &&& f.val) % 16 ≤ 9 ∧
      f.lo ≤ f.value b ∧ f.value b ≤ f.hi := by
  simp only [FieldSpec.accepts, FieldSpec.value, Bool.and_eq_true, beq_iff_eq, decide_eq_true_eq, and_assoc]

theorem decodeField_eq_ok_iff_accepts {reg : RegName} {idx : Nat} {row : FieldRow} {b : Byte} {v : Int} :
    decodeField reg idx row b = .ok v ↔ row.spec.accepts b = true ∧ v = row.spec.value b := by
  have hres : b &&& row.res = 0 ↔ b.toNat &&& row.res.toNat = 0 := by
    rw [← BitVec.toNat_inj, BitVec.toNat_and]
    rfl
  rw [decodeField_eq_ok_iff, bcdDec_eq_some_iff_digits, fieldSpec_accepts_iff, hres, BitVec.toNat_and]
  constructor
  · rintro ⟨hzero, ⟨hhi, hlo, rfl⟩, hrange⟩
    exact ⟨⟨hzero, hhi, hlo, hrange⟩, rfl⟩
  · rintro ⟨⟨hzero, hhi, hlo, hrange⟩, rfl⟩
    exact ⟨hzero, ⟨hhi, hlo, rfl⟩, hrange⟩

/-- A field decodes to its digits exactly where its row accepts the byte. -/
theorem decodeField_eq_ite (reg : RegName) (idx : Nat) (row : FieldRow) (b : Byte) :
    decodeField reg idx row b =
      if row.spec.accepts b then .ok (row.spec.value b) else .error (.format reg idx) := by
  by_cases hb : row.spec.accepts b = true
  · rw [if_pos hb]
    exact decodeField_eq_ok_iff_accepts.mpr ⟨hb, rfl⟩
  · rw [if_neg hb]
    cases hf : decodeField reg idx row b with
    | error e => rw [decodeField_eq_error hf]
    | ok v => exact absurd (decodeField_eq_ok_iff_accepts.mp hf).1 hb

/-- A field's decoding in front of a chain puts its byte's index in front of the chain's failures (R345(c)). -/
theorem decodeField_bind_eq_failOr {α : Type} {reg : RegName} {idx : Nat} {row : FieldRow} {b : Byte}
    {k : Int → Except Error α} {fs : List FieldSpec} {bs : List Byte} {x : α}
    (hk : k (row.spec.value b) = failOr (.format reg) (firstBadByte fs bs (idx + 1)) x) :
    (decodeField reg idx row b >>= k) = failOr (.format reg) (firstBadByte (row.spec :: fs) (b :: bs) idx) x := by
  rw [decodeField_eq_ite, firstBadByte]
  by_cases hb : row.spec.accepts b
  · rw [if_pos hb, if_pos hb]
    exact hk
  · rw [if_neg hb, if_neg hb]
    rfl

/-! ### One field of an image byte, and the packed byte of its value -/

/-- A row fits its field when the packed byte of every value in range lies within the value bits. -/
def FieldRow.Fits (row : FieldRow) : Prop :=
  ∀ v, row.lo ≤ v → v ≤ row.hi →
    (0 ≤ v ∧ v ≤ 99) ∧ bcdByte v &&& row.res = 0 ∧ bcdByte v &&& row.val = bcdByte v

theorem bcdDec_eq_some_iff {b : Byte} {v : Int} : bcdDec b = some v ↔ b = bcdByte v ∧ 0 ≤ v ∧ v ≤ 99 := by
  constructor
  · intro h
    obtain ⟨hb, hrange⟩ := bcdByte_of_bcdDec h
    exact ⟨hb.symm, hrange⟩
  · rintro ⟨rfl, h0, h1⟩
    exact bcdDec_bcdByte h0 h1

/-- A mask absorbs a mask that contains it. -/
theorem or_and_left_self (x y : Byte) : (x ||| y) &&& x = x := by
  ext i hi
  rw [BitVec.getElem_and, BitVec.getElem_or]
  cases x[i] <;> simp

/-- Outside the bits its row leaves free, a byte that decodes is the packed byte of its value, and nothing else decodes. -/
theorem decodeField_eq_ok_iff_bcdByte {reg : RegName} {idx : Nat} {row : FieldRow} {b : Byte} {v : Int}
    (hrow : row.Fits) :
    decodeField reg idx row b = .ok v ↔ b &&& (row.res ||| row.val) = bcdByte v ∧ row.lo ≤ v ∧ v ≤ row.hi := by
  rw [decodeField_eq_ok_iff, bcdDec_eq_some_iff]
  constructor
  · rintro ⟨hres, ⟨hval, _⟩, hrange⟩
    refine ⟨?_, hrange⟩
    rw [BitVec.and_or_distrib_left, hres, hval]
    exact BitVec.zero_or
  · rintro ⟨hb, hlo, hhi⟩
    obtain ⟨hbcd, hres, hval⟩ := hrow v hlo hhi
    have hbres : b &&& row.res = 0 := by
      rw [← hres, ← hb, BitVec.and_assoc, or_and_left_self]
    have hbval : b &&& row.val = bcdByte v := by
      rw [← hval, ← hb, BitVec.and_assoc, BitVec.or_comm, or_and_left_self]
    exact ⟨hbres, ⟨hbval, hbcd⟩, hlo, hhi⟩

/-- With no bit left free, the packed byte of the value is the one byte that decodes to it. -/
theorem decodeField_eq_ok_iff_eq_bcdByte {reg : RegName} {idx : Nat} {row : FieldRow} {b : Byte} {v : Int}
    (hrow : row.Fits) (hfull : row.res ||| row.val = 0xFF) :
    decodeField reg idx row b = .ok v ↔ b = bcdByte v ∧ row.lo ≤ v ∧ v ≤ row.hi := by
  rw [decodeField_eq_ok_iff_bcdByte hrow, hfull, show (0xFF : Byte) = BitVec.allOnes 8 from rfl, BitVec.and_allOnes]

/-! ### Bit 7 above a packed byte -/

theorem bitAt_seven_placeBit_or :
    ∀ (c : Bit) (x : Byte), x &&& 0x7F = x → bitAt (placeBit c 7 ||| x) 7 = c ∧ (placeBit c 7 ||| x) &&& 0x7F = x := by
  decide

theorem placeBit_bitAt_seven_or : ∀ b : Byte, placeBit (bitAt b 7) 7 ||| (b &&& 0x7F) = b := by decide

theorem placeBit_seven_or_eq_add : ∀ (c : Bit) (x : Byte), x &&& 0x7F = x → placeBit c 7 ||| x = x + placeBit c 7 := by
  decide

theorem bitAt_seven_eq_zero_iff : ∀ b : Byte, bitAt b 7 = 0 ↔ b.toNat < 128 := by decide

end Sys2Proof.Machine
end

section
/-! PROOFS. The time codec (spec/41_time_codec.md): the encoder and the decoder each as the first failure or a value, and
each as the other's inverse. -/

namespace Sys2Proof.Machine

open Claims

/-! ### The encoder (R160 to R162) -/

/-- The century bit of a year in one of the two windows. -/
def centuryBit (year c0 : Int) : Bit := if c0 + 100 ≤ year then 1 else 0

/-- The year counted from its window's base. -/
def yearInWindow (year c0 : Int) : Int := if c0 + 100 ≤ year then year - (c0 + 100) else year - c0

theorem centuryOf_of_mem {year c0 : Int} (h : c0 ≤ year ∧ year ≤ c0 + 199) :
    centuryOf year c0 = .ok (centuryBit year c0, yearInWindow year c0) := by
  rw [centuryOf_eq_ok_iff]
  unfold centuryBit yearInWindow
  by_cases hwin : c0 + 100 ≤ year
  · rw [if_pos hwin, if_pos hwin]
    exact .inr ⟨rfl, rfl, hwin, h.2⟩
  · rw [if_neg hwin, if_neg hwin]
    exact .inl ⟨rfl, rfl, by omega, by omega⟩

theorem centuryOf_of_not_mem {year c0 : Int} (h : year < c0 ∨ c0 + 199 < year) :
    centuryOf year c0 = .error (.range .year) := by
  have hspan : Config.centurySpan = 100 := rfl
  unfold centuryOf
  rw [if_neg (by omega), if_neg (by omega)]

theorem centuryOf_bind_eq_failOr {α : Type} {year c0 : Int} {k : Bit × Int → Except Error α} {x : α}
    (hk : k (centuryBit year c0, yearInWindow year c0) = .ok x) :
    (centuryOf year c0 >>= k) = failOr .range (if year < c0 ∨ c0 + 199 < year then some .year else none) x := by
  by_cases hy : year < c0 ∨ c0 + 199 < year
  · rw [centuryOf_of_not_mem hy, if_pos hy]
    rfl
  · rw [centuryOf_of_mem (by omega), if_neg hy]
    exact hk

theorem checkDow_bind_eq_failOr {α : Type} {dow : Option Int} {k : Unit → Except Error α}
    {bad : Option FieldName} {x : α} (hk : k () = failOr .range bad x) :
    (checkDow dow >>= k) =
      failOr .range (if dow.any (fun w => w < 1 || 7 < w) then some .dow else bad) x := by
  cases dow with
  | none => exact hk
  | some w =>
    simp only [Option.any_some, Bool.or_eq_true, decide_eq_true_eq]
    exact checkRange_bind_eq_failOr hk

/-- The encoder's checks stand in the order of R161, and what passes them all is the image. -/
theorem timeEnc_eq_failOr (t : CalendarTime) (c0 : Int) :
    timeEnc t c0 = failOr .range (firstBadTimeField t c0)
      (timeImage t (centuryBit t.year c0) (yearInWindow t.year c0)) :=
  checkRange_bind_eq_failOr <| checkRange_bind_eq_failOr <| checkRange_bind_eq_failOr <| checkDow_bind_eq_failOr <|
    checkRange_bind_eq_failOr <| checkRange_bind_eq_failOr <| centuryOf_bind_eq_failOr rfl

/-- What encodes is what R37 calls valid. -/
theorem timeEnc_eq_ok_iff_valid {t : CalendarTime} {c0 : Int} {img : Vector Byte 7} :
    timeEnc t c0 = .ok img ↔
      Valid t c0 ∧ img = timeImage t (centuryBit t.year c0) (yearInWindow t.year c0) := by
  rw [timeEnc_eq_ok_iff]
  constructor
  · rintro ⟨hsec, hmin, hhour, hdow, hday, hmonth, cb, yy, hyear, rfl⟩
    have hmem : c0 ≤ t.year ∧ t.year ≤ c0 + 199 := by
      have := centuryOf_eq_ok_iff.mp hyear
      omega
    rw [centuryOf_of_mem hmem] at hyear
    cases hyear
    exact ⟨⟨hsec, hmin, hhour, hdow, hday, hmonth, hmem⟩, rfl⟩
  · rintro ⟨⟨hsec, hmin, hhour, hdow, hday, hmonth, hmem⟩, rfl⟩
    exact ⟨hsec, hmin, hhour, hdow, hday, hmonth, _, _, centuryOf_of_mem hmem, rfl⟩

/-! ### The image in integers -/

theorem bcdByte_eq_ofInt_bcdInt {v : Int} (h : 0 ≤ v ∧ v ≤ 99) : bcdByte v = BitVec.ofInt 8 (bcdInt v) :=
  bcdByte_eq_ofInt h.1 h.2

/-- Byte 3 is the day of week, 0 when absent. -/
theorem dowByte_eq_ofInt (dow : Option Int) : dowByte dow = BitVec.ofInt 8 (dow.getD 0) := by
  cases dow <;> rfl

/-- A day of week is one digit, its own packed byte. -/
theorem dowByte_eq_bcdByte {dow : Option Int} (h : 0 ≤ dow.getD 0 ∧ dow.getD 0 ≤ 7) :
    dowByte dow = bcdByte (dow.getD 0) := by
  rw [dowByte_eq_ofInt, bcdByte_eq_ofInt h.1 (by omega)]
  congr 1
  omega

theorem timeMonth_fits : timeMonth.Fits := by unfold FieldRow.Fits; decide

/-- A packed month leaves bit 7 clear. -/
theorem bcdByte_month_and_0x7F {v : Int} (h : 1 ≤ v ∧ v ≤ 12) : bcdByte v &&& 0x7F = bcdByte v := by
  obtain ⟨-, -, hval⟩ := timeMonth_fits v h.1 h.2
  rw [← hval, BitVec.and_assoc]
  rfl

/-- Byte 5 holds the century bit as 128 above the packed month (R162). -/
theorem monthByte_eq_ofInt {month year c0 : Int} (h : 1 ≤ month ∧ month ≤ 12) :
    placeBit (centuryBit year c0) 7 ||| bcdByte month =
      BitVec.ofInt 8 (bcdInt month + if c0 + 100 ≤ year then 128 else 0) := by
  rw [placeBit_seven_or_eq_add _ _ (bcdByte_month_and_0x7F h), bcdByte_eq_ofInt_bcdInt (by omega), BitVec.ofInt_add,
    centuryBit]
  split <;> rfl

/-- The year in its window has two digits. -/
theorem yearInWindow_mem {year c0 : Int} (h : c0 ≤ year ∧ year ≤ c0 + 199) :
    0 ≤ yearInWindow year c0 ∧ yearInWindow year c0 ≤ 99 := by
  unfold yearInWindow
  split <;> omega

theorem timeImage_toList (t : CalendarTime) (cb : Bit) (yy : Int) :
    (timeImage t cb yy).toList =
      [bcdByte t.second, bcdByte t.minute, bcdByte t.hour, dowByte t.dow, bcdByte t.day,
       placeBit cb 7 ||| bcdByte t.month, bcdByte yy] := rfl

/-- The image of a valid time is the list of its bytes' integers. -/
theorem timeImage_toList_eq_bytesOf {t : CalendarTime} {c0 : Int} (h : Valid t c0) :
    (timeImage t (centuryBit t.year c0) (yearInWindow t.year c0)).toList = bytesOf (timeImageInts t c0) := by
  obtain ⟨hsec, hmin, hhour, hdow, hday, hmonth, hyear⟩ := h
  rw [timeImage_toList, bcdByte_eq_ofInt_bcdInt (v := t.second) (by omega),
    bcdByte_eq_ofInt_bcdInt (v := t.minute) (by omega), bcdByte_eq_ofInt_bcdInt (v := t.hour) (by omega),
    dowByte_eq_ofInt, bcdByte_eq_ofInt_bcdInt (v := t.day) (by omega), monthByte_eq_ofInt hmonth,
    bcdByte_eq_ofInt_bcdInt (yearInWindow_mem hyear)]
  rfl

theorem exec_timeEnc (t : CalendarTime) (c0 : Int) (s : State) :
    exec (.timeEnc t c0) s = .next (put s [.respond (responseOf imageValue (timeEnc t c0))]) := rfl

/-- Settles O29: the request responds with `timeEnc`'s result, and the image's bytes are the integers. -/
theorem timeEncImageOrFirstRangeError : Obligations.TimeEncImageOrFirstRangeError := by
  refine fun t c0 s => ⟨Instr.encodes_of_opcodeOf (i := .timeEnc t c0) rfl, ?_⟩
  have henc := timeEnc_eq_failOr t c0
  rw [exec_timeEnc, henc]
  cases hbad : firstBadTimeField t c0 with
  | some f => rfl
  | none =>
    rw [hbad] at henc
    rw [failOr_none, responseOf_ok, imageValue, timeImage_toList_eq_bytesOf (timeEnc_eq_ok_iff_valid.mp henc).1]

/-! ### The decoder (R166, R167, R169) -/

theorem timeDec_of_length_ne {bs : List Byte} (c0 : Int) (h : bs.length ≠ 7) :
    timeDec bs c0 = .error (lengthError .time 7 bs) := by
  unfold timeDec
  split
  · exact absurd rfl h
  · rfl

theorem exists_of_length_eq_seven {bs : List Byte} (h : bs.length = 7) :
    ∃ b0 b1 b2 b3 b4 b5 b6, bs = [b0, b1, b2, b3, b4, b5, b6] := by
  match bs, h with
  | [_, _, _, _, _, _, _], _ => exact ⟨_, _, _, _, _, _, _, rfl⟩

/-- The calendar time of an image's fields. -/
def timeOfFields (b0 b1 b2 b3 b4 b5 b6 : Byte) (c0 : Int) : CalendarTime :=
  timeOf (timeSecond.spec.value b0) (timeMinute.spec.value b1) (timeHour.spec.value b2) (timeDow.spec.value b3)
    (timeDate.spec.value b4) (timeMonth.spec.value b5) (timeYear.spec.value b6) (bitAt b5 7) c0

/-- The decoder's checks stand in byte order, and what passes them all gives the fields' time. -/
theorem timeDec_eq_failOr (b0 b1 b2 b3 b4 b5 b6 : Byte) (c0 : Int) :
    timeDec [b0, b1, b2, b3, b4, b5, b6] c0 =
      failOr (.format .time) (firstBadByte timeFields [b0, b1, b2, b3, b4, b5, b6] 0)
        (timeOfFields b0 b1 b2 b3 b4 b5 b6 c0) :=
  decodeField_bind_eq_failOr <| decodeField_bind_eq_failOr <| decodeField_bind_eq_failOr <|
    decodeField_bind_eq_failOr <| decodeField_bind_eq_failOr <| decodeField_bind_eq_failOr <|
    decodeField_bind_eq_failOr rfl

theorem exec_timeDec (bs : List Byte) (c0 : Int) (s : State) :
    exec (.timeDec bs c0) s = .next (put s [.respond (responseOf .time (timeDec bs c0))]) := rfl

/-- The statement's response is the decoder's result. -/
theorem responseOf_timeDec (bs : List Byte) (c0 : Int) :
    responseOf .time (timeDec bs c0) = timeDecResponse bs c0 := by
  unfold timeDecResponse
  by_cases hlen : bs.length = 7
  · rw [if_neg (not_not.mpr hlen)]
    obtain ⟨b0, b1, b2, b3, b4, b5, b6, rfl⟩ := exists_of_length_eq_seven hlen
    rw [timeDec_eq_failOr]
    cases firstBadByte timeFields [b0, b1, b2, b3, b4, b5, b6] 0 with
    | some i => rfl
    | none =>
      simp only [failOr_none, responseOf_ok, timeOfFields, timeOf, bitAt_seven_eq_zero_iff]
      rfl
  · rw [if_pos hlen, timeDec_of_length_ne c0 hlen]
    rfl

/-- Settles O30: the request responds with `timeDec`'s result, which the tables decide byte by byte. -/
theorem timeDecFollowsFieldTables : Obligations.TimeDecFollowsFieldTables := by
  refine fun bs c0 s => ⟨Instr.encodes_of_opcodeOf (i := .timeDec bs c0) rfl, ?_⟩
  rw [exec_timeDec, responseOf_timeDec]

/-! ### Each is the other's inverse (R172, R174) -/

theorem timeSecond_fits : timeSecond.Fits := by unfold FieldRow.Fits; decide
theorem timeMinute_fits : timeMinute.Fits := timeSecond_fits
theorem timeHour_fits : timeHour.Fits := by unfold FieldRow.Fits; decide
theorem timeDow_fits : timeDow.Fits := by unfold FieldRow.Fits; decide
theorem timeDate_fits : timeDate.Fits := by unfold FieldRow.Fits; decide
theorem timeYear_fits : timeYear.Fits := by unfold FieldRow.Fits; decide

/-- Byte 5 decodes to the month packed below the century bit. -/
theorem decodeField_timeMonth_eq_ok_iff {b : Byte} {v : Int} :
    decodeField .time 5 timeMonth b = .ok v ↔ b = placeBit (bitAt b 7) 7 ||| bcdByte v ∧ 1 ≤ v ∧ v ≤ 12 := by
  rw [decodeField_eq_ok_iff_bcdByte timeMonth_fits]
  refine and_congr_left fun hrange => ⟨fun h => ?_, fun h => ?_⟩
  · rw [← h]
    exact (placeBit_bitAt_seven_or b).symm
  · rw [h]
    exact (bitAt_seven_placeBit_or _ _ (bcdByte_month_and_0x7F hrange)).2

/-- A year read as a window's base plus two digits lies in that window (R169). -/
theorem centuryOf_base_add {cb : Bit} {yy c0 : Int} (h : 0 ≤ yy ∧ yy ≤ 99) :
    centuryOf ((if cb = 0 then c0 else c0 + Config.centurySpan) + yy) c0 = .ok (cb, yy) := by
  have hspan : Config.centurySpan = 100 := rfl
  rw [centuryOf_eq_ok_iff]
  by_cases hcb : cb = 0
  · rw [if_pos hcb]
    exact .inl ⟨hcb, by omega⟩
  · rw [if_neg hcb]
    exact .inr ⟨cb.eq_zero_or_eq_one.resolve_left hcb, by omega⟩

/-- Its window's base and its two digits make the year again (R162, R169). -/
theorem base_add_yearInWindow (year c0 : Int) :
    (if centuryBit year c0 = 0 then c0 else c0 + Config.centurySpan) + yearInWindow year c0 = year := by
  have hspan : Config.centurySpan = 100 := rfl
  unfold centuryBit yearInWindow
  split
  · rw [if_neg (by decide)]
    omega
  · rw [if_pos rfl]
    omega

/-- A day of week in range, or absent, is a digit from 0 to 7. -/
theorem getD_dow_mem {dow : Option Int} (h : ∀ w, dow = some w → 1 ≤ w ∧ w ≤ 7) :
    0 ≤ dow.getD 0 ∧ dow.getD 0 ≤ 7 := by
  cases dow with
  | none => decide
  | some w =>
    have hw := h w rfl
    change 0 ≤ w ∧ w ≤ 7
    omega

/-- Digit 0 reads as absent, and any other digit as itself. -/
theorem dow_of_getD {dow : Option Int} (h : ∀ w, dow = some w → 1 ≤ w ∧ w ≤ 7) :
    (if dow.getD 0 = 0 then none else some (dow.getD 0)) = dow := by
  cases dow with
  | none => rfl
  | some w =>
    have hw := h w rfl
    exact if_neg (show w ≠ 0 by omega)

/-- A digit that reads as present is 1 to 7. -/
theorem mem_of_digit_eq_some {d w : Int} (hd : 0 ≤ d ∧ d ≤ 7) (h : (if d = 0 then none else some d) = some w) :
    1 ≤ w ∧ w ≤ 7 := by
  split at h
  · cases h
  · cases h
    omega

/-- A digit's day of week has that digit as its byte. -/
theorem dowByte_of_digit {d : Int} (h : 0 ≤ d ∧ d ≤ 7) :
    dowByte (if d = 0 then none else some d) = bcdByte d := by
  by_cases hd : d = 0
  · rw [if_pos hd, hd]
    rfl
  · rw [if_neg hd]
    exact dowByte_eq_bcdByte h

/-- Every accepted image is canonical: it is the image of the time it decodes to (R174). -/
theorem timeEnc_of_timeDec {bs : List Byte} {c0 : Int} {t : CalendarTime} (h : timeDec bs c0 = .ok t) :
    ∃ img, timeEnc t c0 = .ok img ∧ img.toList = bs := by
  obtain ⟨b0, b1, b2, b3, b4, b5, b6, v0, v1, v2, v3, v4, v5, v6, rfl, h0, h1, h2, h3, h4, h5, h6, rfl⟩ :=
    timeDec_eq_ok_iff.mp h
  obtain ⟨rfl, hsec⟩ := (decodeField_eq_ok_iff_eq_bcdByte timeSecond_fits rfl).mp h0
  obtain ⟨rfl, hmin⟩ := (decodeField_eq_ok_iff_eq_bcdByte timeMinute_fits rfl).mp h1
  obtain ⟨rfl, hhour⟩ := (decodeField_eq_ok_iff_eq_bcdByte timeHour_fits rfl).mp h2
  obtain ⟨rfl, hdow⟩ := (decodeField_eq_ok_iff_eq_bcdByte timeDow_fits rfl).mp h3
  obtain ⟨rfl, hday⟩ := (decodeField_eq_ok_iff_eq_bcdByte timeDate_fits rfl).mp h4
  obtain ⟨hb5, hmonth⟩ := decodeField_timeMonth_eq_ok_iff.mp h5
  obtain ⟨rfl, hyy⟩ := (decodeField_eq_ok_iff_eq_bcdByte timeYear_fits rfl).mp h6
  refine ⟨_, timeEnc_eq_ok_iff.mpr ⟨hsec, hmin, hhour, fun w hw => ?_, hday, hmonth, bitAt b5 7, v6,
    centuryOf_base_add hyy, rfl⟩, ?_⟩
  · exact mem_of_digit_eq_some hdow hw
  · simp only [timeImage_toList, timeOf]
    rw [dowByte_of_digit hdow, ← hb5]

/-- The decoder accepts every image of the encoder, with the time it came from (R164, R172). -/
theorem timeDec_of_timeEnc {t : CalendarTime} {c0 : Int} {img : Vector Byte 7} (h : timeEnc t c0 = .ok img) :
    timeDec img.toList c0 = .ok t := by
  obtain ⟨⟨hsec, hmin, hhour, hdow, hday, hmonth, hyear⟩, rfl⟩ := timeEnc_eq_ok_iff_valid.mp h
  obtain ⟨hcentury, -⟩ := bitAt_seven_placeBit_or (centuryBit t.year c0) _ (bcdByte_month_and_0x7F hmonth)
  refine timeDec_eq_ok_iff.mpr ⟨_, _, _, _, _, _, _, t.second, t.minute, t.hour, t.dow.getD 0, t.day, t.month,
    yearInWindow t.year c0, rfl, ?_, ?_, ?_, ?_, ?_, ?_, ?_, ?_⟩
  · exact (decodeField_eq_ok_iff_eq_bcdByte timeSecond_fits rfl).mpr ⟨rfl, hsec⟩
  · exact (decodeField_eq_ok_iff_eq_bcdByte timeMinute_fits rfl).mpr ⟨rfl, hmin⟩
  · exact (decodeField_eq_ok_iff_eq_bcdByte timeHour_fits rfl).mpr ⟨rfl, hhour⟩
  · exact (decodeField_eq_ok_iff_eq_bcdByte timeDow_fits rfl).mpr
      ⟨dowByte_eq_bcdByte (getD_dow_mem hdow), getD_dow_mem hdow⟩
  · exact (decodeField_eq_ok_iff_eq_bcdByte timeDate_fits rfl).mpr ⟨rfl, hday⟩
  · exact decodeField_timeMonth_eq_ok_iff.mpr ⟨by rw [hcentury], hmonth⟩
  · exact (decodeField_eq_ok_iff_eq_bcdByte timeYear_fits rfl).mpr ⟨rfl, yearInWindow_mem hyear⟩
  · rw [hcentury, timeOf, dow_of_getD hdow, base_add_yearInWindow]

/-- Settles O31: a valid time encodes, and the decoder undoes the encoder. -/
theorem timeRoundTripFromTimes : Obligations.TimeRoundTripFromTimes := by
  intro t c0 hvalid
  have henc := timeEnc_eq_ok_iff_valid.mpr ⟨hvalid, rfl⟩
  exact ⟨_, henc, timeDec_of_timeEnc henc⟩

/-- Settles O32: an accepted image is its time's image, and a time is what its image decodes to. -/
theorem acceptedTimeImagesAreCanonical : Obligations.AcceptedTimeImagesAreCanonical := by
  refine ⟨fun bs c0 t hdec => ?_, fun t u c0 img ht hu => ?_, fun t c0 img henc => ⟨t, timeDec_of_timeEnc henc⟩⟩
  · obtain ⟨img, henc, himg⟩ := timeEnc_of_timeDec hdec
    exact ⟨(timeEnc_eq_ok_iff_valid.mp henc).1, img, henc, himg⟩
  · exact Except.ok.inj ((timeDec_of_timeEnc ht).symm.trans (timeDec_of_timeEnc hu))

/-! ### The century base (R176) -/

/-- Another base moves the year by the difference. -/
theorem timeOfFields_eq_move_year (b0 b1 b2 b3 b4 b5 b6 : Byte) (c0 c1 : Int) :
    timeOfFields b0 b1 b2 b3 b4 b5 b6 c1 =
      { timeOfFields b0 b1 b2 b3 b4 b5 b6 c0 with
        year := (timeOfFields b0 b1 b2 b3 b4 b5 b6 c0).year - c0 + c1 } := by
  simp only [timeOfFields, timeOf, CalendarTime.mk.injEq, and_true]
  split <;> omega

theorem timeDec_eq_map_year (bs : List Byte) (c0 c1 : Int) :
    timeDec bs c1 = (timeDec bs c0).map fun t => { t with year := t.year - c0 + c1 } := by
  by_cases hlen : bs.length = 7
  · obtain ⟨b0, b1, b2, b3, b4, b5, b6, rfl⟩ := exists_of_length_eq_seven hlen
    rw [timeDec_eq_failOr, timeDec_eq_failOr, map_failOr, ← timeOfFields_eq_move_year]
  · rw [timeDec_of_length_ne c1 hlen, timeDec_of_length_ne c0 hlen]
    rfl

/-- A check in front that is the same on both sides is of no account. -/
theorem ite_some_eq_some_congr {c : Prop} [Decidable c] {f g : FieldName} {x y : Option FieldName}
    (h : x = some f ↔ y = some f) :
    (if c then some g else x) = some f ↔ (if c then some g else y) = some f := by
  split
  · rfl
  · exact h

/-- The base has a part in the last check only, that of the year. -/
theorem firstBadTimeField_eq_some_iff_of_ne_year {t : CalendarTime} {c0 c1 : Int} {f : FieldName} (hf : f ≠ .year) :
    firstBadTimeField t c0 = some f ↔ firstBadTimeField t c1 = some f := by
  have hyear (c : Int) : ¬(if t.year < c ∨ c + 199 < t.year then some .year else none) = some f := by
    split
    · simpa using hf.symm
    · simp
  exact ite_some_eq_some_congr <| ite_some_eq_some_congr <| ite_some_eq_some_congr <| ite_some_eq_some_congr <|
    ite_some_eq_some_congr <| ite_some_eq_some_congr <| iff_of_false (hyear c0) (hyear c1)

/-- Settles O33: the base has no part in the decoder's checks, and among the encoder's only in the year's. -/
theorem centuryBaseOnlyMovesTheYear : Obligations.CenturyBaseOnlyMovesTheYear := by
  refine ⟨timeDec_eq_map_year, fun t c0 c1 f hf => ?_⟩
  rw [timeEnc_eq_failOr, timeEnc_eq_failOr, failOr_range_eq_error_iff, failOr_range_eq_error_iff,
    firstBadTimeField_eq_some_iff_of_ne_year hf]

end Sys2Proof.Machine
end

section
/-! PROOFS. The status and control codecs (spec/42_status_control_codec.md). A flag is the bit its decoder extracts. The
round trips then give the places its encoder puts the flags in, since a byte is the weighted sum of its bits. -/

namespace Sys2Proof.Machine

open Claims

/-! ### The bits of a byte -/

theorem toNat_bitAt (b : Byte) (k : Nat) : (bitAt b k).toNat = bitNat b k := by
  rw [bitAt, BitVec.extractLsb'_toNat, Nat.shiftRight_eq_div_pow]
  rfl

/-- The rate select is a number of two bits, bit 4 above bit 3 (R205). -/
theorem toNat_extractLsb'_three_two (b : Byte) : (b.extractLsb' 3 2).toNat = 2 * bitNat b 4 + bitNat b 3 := by
  rw [BitVec.extractLsb'_toNat, Nat.shiftRight_eq_div_pow]
  unfold bitNat
  omega

theorem toNat_eq_sum_bitNat : ∀ b : Byte,
    b.toNat = 128 * bitNat b 7 + 64 * bitNat b 6 + 32 * bitNat b 5 + 16 * bitNat b 4 + 8 * bitNat b 3 +
      4 * bitNat b 2 + 2 * bitNat b 1 + bitNat b 0 := by decide

/-- The mask of the status flags drops bits 6:4 of the sum. -/
theorem toNat_and_0x8F_eq_sum_bitNat : ∀ b : Byte,
    (b &&& 0x8F).toNat =
      128 * bitNat b 7 + 8 * bitNat b 3 + 4 * bitNat b 2 + 2 * bitNat b 1 + bitNat b 0 := by decide

/-! ### The status codec (R200 to R204) -/

/-- The flags as numbers are the bits of R201. -/
theorem toNat_statusFlagsOf (b : Byte) :
    (statusFlagsOf b).osf.toNat = bitNat b 7 ∧ (statusFlagsOf b).en32khz.toNat = bitNat b 3 ∧
      (statusFlagsOf b).bsy.toNat = bitNat b 2 ∧ (statusFlagsOf b).a2f.toNat = bitNat b 1 ∧
      (statusFlagsOf b).a1f.toNat = bitNat b 0 :=
  ⟨toNat_bitAt b 7, toNat_bitAt b 3, toNat_bitAt b 2, toNat_bitAt b 1, toNat_bitAt b 0⟩

@[simp] theorem statusFlagsOf_statusEnc (f : StatusFlags) : statusFlagsOf (statusEnc f) = f :=
  statusFlagsOf_statusEnc_all f.osf f.a1f f.a2f f.bsy f.en32khz

/-- An encoded status byte lies within the mask of the flags. -/
theorem statusEnc_and_0x8F (f : StatusFlags) : statusEnc f &&& 0x8F = statusEnc f := by
  rw [← statusEnc_statusFlagsOf, statusFlagsOf_statusEnc]

theorem toNat_statusEnc (f : StatusFlags) :
    (statusEnc f).toNat =
      128 * f.osf.toNat + 8 * f.en32khz.toNat + 4 * f.bsy.toNat + 2 * f.a2f.toNat + f.a1f.toNat := by
  have hflags := toNat_statusFlagsOf (statusEnc f)
  have hsum := toNat_and_0x8F_eq_sum_bitNat (statusEnc f)
  rw [statusFlagsOf_statusEnc] at hflags
  rw [statusEnc_and_0x8F] at hsum
  omega

theorem statusDec_singleton (b : Byte) : statusDec [b] = .ok (statusFlagsOf b) := rfl

theorem statusDec_of_length_ne {bs : List Byte} (h : bs.length ≠ 1) :
    statusDec bs = .error (lengthError .status 1 bs) := by
  unfold statusDec
  split
  · exact absurd rfl h
  · rfl

theorem exec_statusEnc (f : StatusFlags) (s : State) :
    exec (.statusEnc f) s = .next (put s [.respond (.ok (.byte (statusEnc f)))]) := rfl

theorem exec_statusDec (bs : List Byte) (s : State) :
    exec (.statusDec bs) s = .next (put s [.respond (responseOf .status (statusDec bs))]) := rfl

/-- Settles O34: the request responds with `statusEnc`'s byte, which `toNat_statusEnc` gives as the sum. -/
theorem statusEncPlacesFlags : Obligations.StatusEncPlacesFlags := fun f s =>
  ⟨Instr.encodes_of_opcodeOf (i := .statusEnc f) rfl, statusEnc f, exec_statusEnc f s, toNat_statusEnc f⟩

/-- Settles O35: the request responds with `statusDec`'s result, the flags of a single byte or the length error. -/
theorem statusDecExtractsFlags : Obligations.StatusDecExtractsFlags := by
  refine ⟨fun bs => Instr.encodes_of_opcodeOf (i := .statusDec bs) rfl,
    fun b s => ⟨statusFlagsOf b, ?_, toNat_statusFlagsOf b⟩, fun bs s hlen => ?_⟩
  · rw [exec_statusDec, statusDec_singleton, responseOf_ok]
  · rw [exec_statusDec, statusDec_of_length_ne hlen, responseOf_error, lengthError]

/-- Settles O36: the flags of an encoded record are the record, and a decoded record is the flags of its byte. -/
theorem statusCodecLaws : Obligations.StatusCodecLaws := by
  refine ⟨fun f => ?_, fun b f hdec => ?_⟩
  · rw [statusDec_singleton, statusFlagsOf_statusEnc]
  · obtain rfl : statusFlagsOf b = f := Except.ok.inj hdec
    exact ⟨statusEnc_statusFlagsOf b, rfl, statusClearOsf_eq b⟩

/-! ### The control codec (R205 to R207) -/

/-- The fields as numbers are the bits of R206. -/
theorem toNat_controlFlagsOf (b : Byte) :
    (controlFlagsOf b).eosc.toNat = bitNat b 7 ∧ (controlFlagsOf b).bbsqw.toNat = bitNat b 6 ∧
      (controlFlagsOf b).conv.toNat = bitNat b 5 ∧ (controlFlagsOf b).rs.toNat = 2 * bitNat b 4 + bitNat b 3 ∧
      (controlFlagsOf b).intcn.toNat = bitNat b 2 ∧ (controlFlagsOf b).a2ie.toNat = bitNat b 1 ∧
      (controlFlagsOf b).a1ie.toNat = bitNat b 0 :=
  ⟨toNat_bitAt b 7, toNat_bitAt b 6, toNat_bitAt b 5, toNat_extractLsb'_three_two b, toNat_bitAt b 2, toNat_bitAt b 1,
    toNat_bitAt b 0⟩

@[simp] theorem controlFlagsOf_controlEnc (f : ControlFlags) : controlFlagsOf (controlEnc f) = f :=
  controlFlagsOf_controlEnc_all f.a1ie f.a2ie f.intcn f.rs f.conv f.bbsqw f.eosc

theorem toNat_controlEnc (f : ControlFlags) :
    (controlEnc f).toNat =
      128 * f.eosc.toNat + 64 * f.bbsqw.toNat + 32 * f.conv.toNat + 8 * f.rs.toNat + 4 * f.intcn.toNat +
        2 * f.a2ie.toNat + f.a1ie.toNat := by
  have hfields := toNat_controlFlagsOf (controlEnc f)
  have hsum := toNat_eq_sum_bitNat (controlEnc f)
  rw [controlFlagsOf_controlEnc] at hfields
  omega

theorem controlDec_singleton (b : Byte) : controlDec [b] = .ok (controlFlagsOf b) := rfl

theorem controlDec_of_length_ne {bs : List Byte} (h : bs.length ≠ 1) :
    controlDec bs = .error (lengthError .control 1 bs) := by
  unfold controlDec
  split
  · exact absurd rfl h
  · rfl

theorem exec_controlEnc (f : ControlFlags) (s : State) :
    exec (.controlEnc f) s = .next (put s [.respond (.ok (.byte (controlEnc f)))]) := rfl

theorem exec_controlDec (bs : List Byte) (s : State) :
    exec (.controlDec bs) s = .next (put s [.respond (responseOf .control (controlDec bs))]) := rfl

/-- Settles O37: the request responds with `controlEnc`'s byte, which `toNat_controlEnc` gives as the sum. -/
theorem controlEncPlacesFields : Obligations.ControlEncPlacesFields := fun f s =>
  ⟨Instr.encodes_of_opcodeOf (i := .controlEnc f) rfl, controlEnc f, exec_controlEnc f s, toNat_controlEnc f⟩

/-- Settles O38: the request responds with `controlDec`'s result, the fields of a single byte or the length error. -/
theorem controlDecExtractsFields : Obligations.ControlDecExtractsFields := by
  refine ⟨fun bs => Instr.encodes_of_opcodeOf (i := .controlDec bs) rfl,
    fun b s => ⟨controlFlagsOf b, ?_, toNat_controlFlagsOf b⟩, fun bs s hlen => ?_⟩
  · rw [exec_controlDec, controlDec_singleton, responseOf_ok]
  · rw [exec_controlDec, controlDec_of_length_ne hlen, responseOf_error, lengthError]

/-- Settles O39: `controlFlagsOf`, which every single byte decodes to, and `controlEnc` are inverse to each other. -/
theorem controlCodecIsBijective : Obligations.ControlCodecIsBijective := by
  refine ⟨fun f => ?_, fun b f hdec => ?_⟩
  · rw [controlDec_singleton, controlFlagsOf_controlEnc]
  · obtain rfl : controlFlagsOf b = f := Except.ok.inj hdec
    exact controlEnc_controlFlagsOf b

end Sys2Proof.Machine
end

section
/-! PROOFS. The alarm codec (spec/43_alarm_codec.md): the two shapes of an alarm byte, the encoder and the decoder each
against the tables, and each as the other's inverse up to the DY bit of an image outside the day modes. -/

namespace Sys2Proof.Machine

open Claims

/-! ### The rows of the alarm images (R49) -/

theorem alarmSecond_fits : alarmSecond.Fits := by unfold FieldRow.Fits; decide
theorem alarmMinute_fits : alarmMinute.Fits := alarmSecond_fits
theorem alarmHour_fits : alarmHour.Fits := by unfold FieldRow.Fits; decide
theorem alarmDay_fits (dy : Bit) : (alarmDay dy).Fits := by unfold FieldRow.Fits; revert dy; decide

/-- The packed byte of a value in range lies within the bits its row speaks of. -/
theorem FieldRow.Fits.bcdByte_and {row : FieldRow} {v : Int} (hrow : row.Fits) (hrange : row.lo ≤ v ∧ v ≤ row.hi) :
    bcdByte v &&& (row.res ||| row.val) = bcdByte v := by
  obtain ⟨-, hres, hval⟩ := hrow v hrange.1 hrange.2
  rw [BitVec.and_or_distrib_left, hres, hval]
  exact BitVec.zero_or

/-- The day row leaves the mask bit and DY free, whatever DY is. -/
theorem alarmDay_bits : ∀ dy : Bit, (alarmDay dy).res ||| (alarmDay dy).val = 0x3F := by decide

theorem bcdByte_day_and_0x3F {dy : Bit} {v : Int} (h : (alarmDay dy).lo ≤ v ∧ v ≤ (alarmDay dy).hi) :
    bcdByte v &&& 0x3F = bcdByte v :=
  alarmDay_bits dy ▸ (alarmDay_fits dy).bcdByte_and h

/-- A day admitted under a DY bit is admitted where that bit is cleared. -/
theorem alarmDay_hi_le_of_cleared (c : Prop) [Decidable c] (dy : Bit) :
    (alarmDay dy).hi ≤ (alarmDay (if c then dy else 0)).hi := by
  split
  · exact le_rfl
  · revert dy
    decide

/-! ### The two shapes of an alarm byte (R49) -/

/-- A second, minute or hour byte: the mask bit above the packed value. -/
def maskedByte (m : Bit) (v : Int) : Byte := placeBit m 7 ||| bcdByte v

/-- The day/date byte: the mask bit and DY above the packed value. -/
def dayByte (m dy : Bit) (v : Int) : Byte := placeBit m 7 ||| placeBit dy 6 ||| bcdByte v

theorem bitAt_dayBits_or : ∀ (m dy : Bit) (x : Byte), x &&& 0x3F = x →
    (placeBit m 7 ||| placeBit dy 6 ||| x) &&& 0x3F = x ∧ bitAt (placeBit m 7 ||| placeBit dy 6 ||| x) 7 = m ∧
      bitAt (placeBit m 7 ||| placeBit dy 6 ||| x) 6 = dy := by decide

theorem dayBits_bitAt_or : ∀ b : Byte, placeBit (bitAt b 7) 7 ||| placeBit (bitAt b 6) 6 ||| (b &&& 0x3F) = b := by
  decide

theorem dayBits_or_and_0xBF : ∀ (m dy : Bit) (x : Byte), x &&& 0x3F = x →
    (placeBit m 7 ||| placeBit dy 6 ||| x) &&& 0xBF = placeBit m 7 ||| placeBit 0 6 ||| x := by decide

theorem dayBits_or_eq_add : ∀ (m dy : Bit) (x : Byte), x &&& 0x3F = x →
    placeBit m 7 ||| placeBit dy 6 ||| x = placeBit m 7 + placeBit dy 6 + x := by decide

/-- A byte that decodes is its mask bit above the packed byte of its value, and nothing else decodes. -/
theorem decodeField_and_mask_iff {reg : RegName} {idx : Nat} {row : FieldRow} {b : Byte} {v : Int} {m : Bit}
    (hrow : row.Fits) (hbits : row.res ||| row.val = 0x7F) :
    decodeField reg idx row b = .ok v ∧ bitAt b 7 = m ↔ b = maskedByte m v ∧ row.lo ≤ v ∧ v ≤ row.hi := by
  rw [decodeField_eq_ok_iff_bcdByte hrow, hbits, and_right_comm]
  refine and_congr_left fun hrange => ⟨?_, ?_⟩
  · rintro ⟨hb, rfl⟩
    rw [maskedByte, ← hb, placeBit_bitAt_seven_or]
  · rintro rfl
    exact (bitAt_seven_placeBit_or m _ (hbits ▸ hrow.bcdByte_and hrange)).symm

/-- The same of the day/date byte, whose own DY bit chooses its row (R241). -/
theorem decodeField_alarmDay_and_bits_iff {reg : RegName} {idx : Nat} {b : Byte} {v : Int} {m dy : Bit} :
    decodeField reg idx (alarmDay (bitAt b 6)) b = .ok v ∧ bitAt b 7 = m ∧ bitAt b 6 = dy ↔
      b = dayByte m dy v ∧ (alarmDay dy).lo ≤ v ∧ v ≤ (alarmDay dy).hi := by
  rw [decodeField_eq_ok_iff_bcdByte (alarmDay_fits _), alarmDay_bits]
  constructor
  · rintro ⟨⟨hb, hrange⟩, rfl, rfl⟩
    refine ⟨?_, hrange⟩
    rw [dayByte, ← hb, dayBits_bitAt_or]
  · rintro ⟨rfl, hrange⟩
    obtain ⟨hval, hm, hdy⟩ := bitAt_dayBits_or m dy _ (bcdByte_day_and_0x3F hrange)
    exact ⟨⟨hval, by rwa [dayByte, hdy]⟩, hm, hdy⟩

/-! ### The encoder (R230 to R232) -/

/-- The image of an alarm spec. -/
def alarmImage : AlarmSpec → List Byte
  | .alarm1 sec min hour day mode =>
    [maskedByte (masks1 mode).m1 sec, maskedByte (masks1 mode).m2 min, maskedByte (masks1 mode).m3 hour,
     dayByte (masks1 mode).m4 (masks1 mode).dy day]
  | .alarm2 min hour day mode =>
    [maskedByte (masks2 mode).m2 min, maskedByte (masks2 mode).m3 hour,
     dayByte (masks2 mode).m4 (masks2 mode).dy day]

/-- Every field of an alarm spec in its range; the day's by the mode's DY bit. -/
def AlarmInRange : AlarmSpec → Prop
  | .alarm1 sec min hour day mode =>
    (0 ≤ sec ∧ sec ≤ 59) ∧ (0 ≤ min ∧ min ≤ 59) ∧ (0 ≤ hour ∧ hour ≤ 23) ∧
      (alarmDay (masks1 mode).dy).lo ≤ day ∧ day ≤ (alarmDay (masks1 mode).dy).hi
  | .alarm2 min hour day mode =>
    (0 ≤ min ∧ min ≤ 59) ∧ (0 ≤ hour ∧ hour ≤ 23) ∧
      (alarmDay (masks2 mode).dy).lo ≤ day ∧ day ≤ (alarmDay (masks2 mode).dy).hi

/-- When an alarm spec encodes, and to what. -/
theorem alarmEnc_eq_ok_iff {a : AlarmSpec} {bs : List Byte} :
    alarmEnc a = .ok bs ↔ AlarmInRange a ∧ bs = alarmImage a := by
  cases a with
  | alarm1 sec min hour day mode =>
    simp only [alarmEnc, bind_eq_ok_iff, checkRange_eq_ok_iff]
    constructor
    · rintro ⟨-, hsec, -, hmin, -, hhour, -, hday, himg⟩
      exact ⟨⟨hsec, hmin, hhour, hday⟩, (Except.ok.inj himg).symm⟩
    · rintro ⟨⟨hsec, hmin, hhour, hday⟩, rfl⟩
      exact ⟨(), hsec, (), hmin, (), hhour, (), hday, rfl⟩
  | alarm2 min hour day mode =>
    simp only [alarmEnc, bind_eq_ok_iff, checkRange_eq_ok_iff]
    constructor
    · rintro ⟨-, hmin, -, hhour, -, hday, himg⟩
      exact ⟨⟨hmin, hhour, hday⟩, (Except.ok.inj himg).symm⟩
    · rintro ⟨⟨hmin, hhour, hday⟩, rfl⟩
      exact ⟨(), hmin, (), hhour, (), hday, rfl⟩

/-- The tables' mask bits and DY are the model's, as numbers. -/
theorem a1Bits_eq (mode : A1Mode) :
    a1Bits mode = ([((masks1 mode).m1.toNat : Int), (masks1 mode).m2.toNat, (masks1 mode).m3.toNat,
      (masks1 mode).m4.toNat], ((masks1 mode).dy.toNat : Int)) := by
  cases mode with
  | matchDHMS sel => cases sel <;> rfl
  | _ => rfl

theorem a2Bits_eq (mode : A2Mode) :
    a2Bits mode = ([((masks2 mode).m2.toNat : Int), (masks2 mode).m3.toNat, (masks2 mode).m4.toNat],
      ((masks2 mode).dy.toNat : Int)) := by
  cases mode with
  | matchDHM sel => cases sel <;> rfl
  | _ => rfl

theorem alarmDay_hi_eq : ∀ dy : Bit, (alarmDay dy).hi = if (dy.toNat : Int) = 1 then 7 else 31 := by decide

/-- The encoder's checks stand in the order of R230, and what passes them all is the image. -/
theorem alarmEnc_eq_failOr (a : AlarmSpec) :
    alarmEnc a = failOr .range (firstBadAlarmField a) (alarmImage a) := by
  cases a with
  | alarm1 sec min hour day mode =>
    rw [firstBadAlarmField, a1Bits_eq, ← alarmDay_hi_eq]
    exact checkRange_bind_eq_failOr <| checkRange_bind_eq_failOr <| checkRange_bind_eq_failOr <|
      checkRange_bind_eq_failOr rfl
  | alarm2 min hour day mode =>
    rw [firstBadAlarmField, a2Bits_eq, ← alarmDay_hi_eq]
    exact checkRange_bind_eq_failOr <| checkRange_bind_eq_failOr <| checkRange_bind_eq_failOr rfl

/-! ### The image in integers -/

theorem placeBit_seven_eq_ofInt : ∀ m : Bit, placeBit m 7 = BitVec.ofInt 8 (128 * (m.toNat : Int)) := by decide

theorem placeBit_six_eq_ofInt : ∀ dy : Bit, placeBit dy 6 = BitVec.ofInt 8 (64 * (dy.toNat : Int)) := by decide

theorem maskedByte_eq_ofInt {row : FieldRow} {v : Int} (hrow : row.Fits) (hbits : row.res ||| row.val = 0x7F)
    (hrange : row.lo ≤ v ∧ v ≤ row.hi) (m : Bit) :
    maskedByte m v = BitVec.ofInt 8 (128 * (m.toNat : Int) + bcdInt v) := by
  rw [maskedByte, placeBit_seven_or_eq_add m _ (hbits ▸ hrow.bcdByte_and hrange), BitVec.add_comm,
    placeBit_seven_eq_ofInt, bcdByte_eq_ofInt_bcdInt (hrow v hrange.1 hrange.2).1, BitVec.ofInt_add]

theorem dayByte_eq_ofInt {dy : Bit} {v : Int} (hrange : (alarmDay dy).lo ≤ v ∧ v ≤ (alarmDay dy).hi) (m : Bit) :
    dayByte m dy v = BitVec.ofInt 8 (128 * (m.toNat : Int) + 64 * (dy.toNat : Int) + bcdInt v) := by
  rw [dayByte, dayBits_or_eq_add m dy _ (bcdByte_day_and_0x3F hrange), placeBit_seven_eq_ofInt, placeBit_six_eq_ofInt,
    bcdByte_eq_ofInt_bcdInt (alarmDay_fits dy v hrange.1 hrange.2).1, BitVec.ofInt_add, BitVec.ofInt_add]

/-- The image of an alarm spec in range is the list of its bytes' integers. -/
theorem alarmImage_eq_bytesOf {a : AlarmSpec} (h : AlarmInRange a) : alarmImage a = bytesOf (alarmImageInts a) := by
  cases a with
  | alarm1 sec min hour day mode =>
    obtain ⟨hsec, hmin, hhour, hday⟩ := h
    rw [alarmImage, alarmImageInts, a1Bits_eq, maskedByte_eq_ofInt alarmSecond_fits rfl hsec,
      maskedByte_eq_ofInt alarmMinute_fits rfl hmin, maskedByte_eq_ofInt alarmHour_fits rfl hhour,
      dayByte_eq_ofInt hday]
    rfl
  | alarm2 min hour day mode =>
    obtain ⟨hmin, hhour, hday⟩ := h
    rw [alarmImage, alarmImageInts, a2Bits_eq, maskedByte_eq_ofInt alarmMinute_fits rfl hmin,
      maskedByte_eq_ofInt alarmHour_fits rfl hhour, dayByte_eq_ofInt hday]
    rfl

/-- The encoder in the words of the tables: the first field out of range, or the bytes of the integers. -/
theorem alarmEnc_eq_failOr_bytesOf (a : AlarmSpec) :
    alarmEnc a = failOr .range (firstBadAlarmField a) (bytesOf (alarmImageInts a)) := by
  have henc := alarmEnc_eq_failOr a
  cases hbad : firstBadAlarmField a with
  | some f => rw [henc, hbad, failOr_some, failOr_some]
  | none =>
    rw [hbad, failOr_none] at henc
    rw [henc, failOr_none, alarmImage_eq_bytesOf (alarmEnc_eq_ok_iff.mp henc).1]

theorem exec_alarmEnc (a : AlarmSpec) (s : State) :
    exec (.alarmEnc a) s = .next (put s [.respond (responseOf .bytes (alarmEnc a))]) := rfl

/-- Settles O40: the request responds with `alarmEnc`'s result, which the tables give. -/
theorem alarmEncImageOrFirstRangeError : Obligations.AlarmEncImageOrFirstRangeError := by
  refine fun a s => ⟨Instr.encodes_of_opcodeOf (i := .alarmEnc a) rfl, ?_⟩
  rw [exec_alarmEnc, alarmEnc_eq_failOr_bytesOf]
  cases firstBadAlarmField a <;> rfl

/-! ### The decoder (R240 to R245) -/

theorem alarm1Dec_of_length_ne {bs : List Byte} (h : bs.length ≠ 4) :
    alarm1Dec bs = .error (lengthError .alarm1 4 bs) := by
  unfold alarm1Dec
  split
  · exact absurd rfl h
  · rfl

theorem alarm2Dec_of_length_ne {bs : List Byte} (h : bs.length ≠ 3) :
    alarm2Dec bs = .error (lengthError .alarm2 3 bs) := by
  unfold alarm2Dec
  split
  · exact absurd rfl h
  · rfl

/-- The tables' rows are the model's: DY as a number is the DY bit. -/
theorem alarm1Fields_eq (b : Byte) :
    alarm1Fields b = [alarmSecond.spec, alarmMinute.spec, alarmHour.spec, (alarmDay (bitAt b 6)).spec] := by
  have hdy : (alarmDay (bitAt b 6)).hi = if bitNat b 6 = 1 then 7 else 31 := by
    rw [alarmDay_hi_eq, toNat_bitAt]
    simp only [Nat.cast_eq_one]
  rw [alarm1Fields, ← hdy]
  rfl

/-- Alarm 1's mode is the count of its mask bits, and a sequence with a drop fails at the first (R50, R244, R245). -/
theorem a1ModeOf_eq_failOr : ∀ m1 m2 m3 m4 dy : Bit,
    a1ModeOf m1 m2 m3 m4 dy =
      failOr (.format .alarm1) (firstDrop [m1.toNat, m2.toNat, m3.toNat, m4.toNat])
        (a1ModeBy [m1.toNat, m2.toNat, m3.toNat, m4.toNat].sum dy.toNat) := by decide

theorem a2ModeOf_eq_failOr : ∀ m2 m3 m4 dy : Bit,
    a2ModeOf m2 m3 m4 dy =
      failOr (.format .alarm2) (firstDrop [m2.toNat, m3.toNat, m4.toNat])
        (a2ModeBy [m2.toNat, m3.toNat, m4.toNat].sum dy.toNat) := by decide

/-- A field's decoding in front of a chain that can also fail after its last byte puts its byte's index in front. -/
theorem decodeField_bind_eq_failOr_or {α : Type} {reg : RegName} {idx : Nat} {row : FieldRow} {b : Byte}
    {k : Int → Except Error α} {fs : List FieldSpec} {bs : List Byte} {bad : Option Nat} {x : α}
    (hk : k (row.spec.value b) = failOr (.format reg) ((firstBadByte fs bs (idx + 1)).or bad) x) :
    (decodeField reg idx row b >>= k) =
      failOr (.format reg) ((firstBadByte (row.spec :: fs) (b :: bs) idx).or bad) x := by
  rw [decodeField_eq_ite, firstBadByte]
  by_cases hb : row.spec.accepts b
  · rw [if_pos hb, if_pos hb]
    exact hk
  · rw [if_neg hb, if_neg hb]
    rfl

theorem failOr_bind_ok {α γ β : Type} (g : α → γ) (mk : β → Error) (bad : Option β) (x : α) :
    (failOr mk bad x >>= fun y => .ok (g y)) = failOr mk bad (g x) := by
  cases bad <;> rfl

/-- The decoder's checks stand in byte order, the mask bits' last, and what passes them all is the fields' spec. -/
theorem alarm1Dec_eq_failOr (b0 b1 b2 b3 : Byte) :
    alarm1Dec [b0, b1, b2, b3] =
      failOr (.format .alarm1)
        ((firstBadByte (alarm1Fields b3) [b0, b1, b2, b3] 0).or
          (firstDrop [bitNat b0 7, bitNat b1 7, bitNat b2 7, bitNat b3 7]))
        (.alarm1 (alarmSecond.spec.value b0) (alarmMinute.spec.value b1) (alarmHour.spec.value b2)
          ((alarmDay (bitAt b3 6)).spec.value b3)
          (a1ModeBy [bitNat b0 7, bitNat b1 7, bitNat b2 7, bitNat b3 7].sum (bitNat b3 6))) := by
  simp only [alarm1Fields_eq, ← toNat_bitAt]
  refine decodeField_bind_eq_failOr_or <| decodeField_bind_eq_failOr_or <| decodeField_bind_eq_failOr_or <|
    decodeField_bind_eq_failOr_or ?_
  rw [a1ModeOf_eq_failOr]
  exact failOr_bind_ok ..

theorem alarm2Dec_eq_failOr (b0 b1 b2 : Byte) :
    alarm2Dec [b0, b1, b2] =
      failOr (.format .alarm2)
        ((firstBadByte ((alarm1Fields b2).drop 1) [b0, b1, b2] 0).or
          (firstDrop [bitNat b0 7, bitNat b1 7, bitNat b2 7]))
        (.alarm2 (alarmMinute.spec.value b0) (alarmHour.spec.value b1) ((alarmDay (bitAt b2 6)).spec.value b2)
          (a2ModeBy [bitNat b0 7, bitNat b1 7, bitNat b2 7].sum (bitNat b2 6))) := by
  simp only [alarm1Fields_eq, ← toNat_bitAt]
  refine decodeField_bind_eq_failOr_or <| decodeField_bind_eq_failOr_or <| decodeField_bind_eq_failOr_or ?_
  rw [a2ModeOf_eq_failOr]
  exact failOr_bind_ok ..

/-- The decoder in the words of the tables, on every length. -/
theorem alarm1Dec_eq_alarm1DecResult (bs : List Byte) : alarm1Dec bs = alarm1DecResult bs := by
  unfold alarm1DecResult
  by_cases hlen : bs.length = 4
  · rw [if_neg (not_not.mpr hlen)]
    obtain ⟨b0, b1, b2, b3, rfl⟩ := List.length_eq_four.mp hlen
    rw [alarm1Dec_eq_failOr]
    simp only [List.getD_cons_succ, List.getD_cons_zero, List.map_cons, List.map_nil]
    cases firstBadByte (alarm1Fields b3) [b0, b1, b2, b3] 0 with
    | some i => rfl
    | none => cases firstDrop [bitNat b0 7, bitNat b1 7, bitNat b2 7, bitNat b3 7] <;> rfl
  · rw [if_pos hlen, alarm1Dec_of_length_ne hlen, lengthError]

theorem alarm2Dec_eq_alarm2DecResult (bs : List Byte) : alarm2Dec bs = alarm2DecResult bs := by
  unfold alarm2DecResult
  by_cases hlen : bs.length = 3
  · rw [if_neg (not_not.mpr hlen)]
    obtain ⟨b0, b1, b2, rfl⟩ := List.length_eq_three.mp hlen
    rw [alarm2Dec_eq_failOr]
    simp only [List.getD_cons_succ, List.getD_cons_zero, List.map_cons, List.map_nil]
    cases firstBadByte ((alarm1Fields b2).drop 1) [b0, b1, b2] 0 with
    | some i => rfl
    | none => cases firstDrop [bitNat b0 7, bitNat b1 7, bitNat b2 7] <;> rfl
  · rw [if_pos hlen, alarm2Dec_of_length_ne hlen, lengthError]

theorem alarmDec_eq_alarmDecResult (bs : List Byte) : alarmDec bs = alarmDecResult bs := by
  rw [alarmDec, alarm1Dec_eq_alarm1DecResult, alarm2Dec_eq_alarm2DecResult]
  rfl

theorem exec_alarmDec (bs : List Byte) (s : State) :
    exec (.alarmDec bs) s = .next (put s [.respond (responseOf .alarm (alarmDec bs))]) := rfl

/-- Settles O41: the request responds with `alarmDec`'s result, which the tables give. -/
theorem alarmDecFollowsFieldTables : Obligations.AlarmDecFollowsFieldTables := by
  refine fun bs s => ⟨Instr.encodes_of_opcodeOf (i := .alarmDec bs) rfl, ?_⟩
  rw [exec_alarmDec, alarmDec_eq_alarmDecResult]
  cases alarmDecResult bs <;> rfl

/-! ### Each is the other's inverse (R250, R251) -/

/-- An image decodes to the alarm its length selects. -/
theorem alarmDec_eq_ok_iff {bs : List Byte} {a : AlarmSpec} :
    alarmDec bs = .ok a ↔ alarm1Dec bs = .ok a ∨ alarm2Dec bs = .ok a := by
  unfold alarmDec
  by_cases h4 : bs.length = 4
  · rw [if_pos h4, alarm2Dec_of_length_ne (by omega)]
    simp
  · rw [if_neg h4, alarm1Dec_of_length_ne h4]
    by_cases h3 : bs.length = 3
    · rw [if_pos h3]
      simp
    · rw [if_neg h3, alarm2Dec_of_length_ne h3]
      simp

/-- The decoder undoes the encoder. -/
theorem alarmDec_alarmImage {a : AlarmSpec} (h : AlarmInRange a) : alarmDec (alarmImage a) = .ok a := by
  rw [alarmDec_eq_ok_iff]
  cases a with
  | alarm1 sec min hour day mode =>
    obtain ⟨hsec, hmin, hhour, hday⟩ := h
    obtain ⟨hsec, hm1⟩ := (decodeField_and_mask_iff alarmSecond_fits rfl).mpr ⟨rfl, hsec⟩
    obtain ⟨hmin, hm2⟩ := (decodeField_and_mask_iff alarmMinute_fits rfl).mpr ⟨rfl, hmin⟩
    obtain ⟨hhour, hm3⟩ := (decodeField_and_mask_iff alarmHour_fits rfl).mpr ⟨rfl, hhour⟩
    obtain ⟨hday, hm4, hdy⟩ := decodeField_alarmDay_and_bits_iff.mpr ⟨rfl, hday⟩
    refine .inl (alarm1Dec_eq_ok_iff.mpr
      ⟨_, _, _, _, sec, min, hour, day, mode, rfl, hsec, hmin, hhour, hday, ?_, rfl⟩)
    rw [hm1, hm2, hm3, hm4, hdy, a1ModeOf_masks1]
  | alarm2 min hour day mode =>
    obtain ⟨hmin, hhour, hday⟩ := h
    obtain ⟨hmin, hm2⟩ := (decodeField_and_mask_iff alarmMinute_fits rfl).mpr ⟨rfl, hmin⟩
    obtain ⟨hhour, hm3⟩ := (decodeField_and_mask_iff alarmHour_fits rfl).mpr ⟨rfl, hhour⟩
    obtain ⟨hday, hm4, hdy⟩ := decodeField_alarmDay_and_bits_iff.mpr ⟨rfl, hday⟩
    refine .inr (alarm2Dec_eq_ok_iff.mpr ⟨_, _, _, min, hour, day, mode, rfl, hmin, hhour, hday, ?_, rfl⟩)
    rw [hm2, hm3, hm4, hdy, a2ModeOf_masks2]

/-- Settles O42: what encodes is in range, and the decoder undoes the encoder. -/
theorem alarmRoundTripFromSpecs : Obligations.AlarmRoundTripFromSpecs := by
  intro a bs henc
  obtain ⟨hrange, rfl⟩ := alarmEnc_eq_ok_iff.mp henc
  exact alarmDec_alarmImage hrange

/-- A mode packs to the mask bits it came from, and to their DY bit where it is a day mode. -/
theorem masks1_of_a1ModeOf {m1 m2 m3 m4 dy : Bit} {mode : A1Mode} (h : a1ModeOf m1 m2 m3 m4 dy = .ok mode)
    (sec min hour day : Int) :
    masks1 mode = ⟨m1, m2, m3, m4, if isDayMode (.alarm1 sec min hour day mode) then dy else 0⟩ := by
  revert h
  cases mode with
  | matchDHMS sel =>
    change _ → masks1 _ = ⟨m1, m2, m3, m4, dy⟩
    revert m1 m2 m3 m4 dy
    cases sel <;> decide
  | _ =>
    change _ → masks1 _ = ⟨m1, m2, m3, m4, 0⟩
    revert m1 m2 m3 m4 dy
    decide

theorem masks2_of_a2ModeOf {m2 m3 m4 dy : Bit} {mode : A2Mode} (h : a2ModeOf m2 m3 m4 dy = .ok mode)
    (min hour day : Int) :
    masks2 mode = ⟨m2, m3, m4, if isDayMode (.alarm2 min hour day mode) then dy else 0⟩ := by
  revert h
  cases mode with
  | matchDHM sel =>
    change _ → masks2 _ = ⟨m2, m3, m4, dy⟩
    revert m2 m3 m4 dy
    cases sel <;> decide
  | _ =>
    change _ → masks2 _ = ⟨m2, m3, m4, 0⟩
    revert m2 m3 m4 dy
    decide

/-- An image with DY cleared where `c` fails is the image whose DY bit is cleared where `c` fails. -/
theorem ite_clearDy_eq (c : Prop) [Decidable c] (init : List Byte) (m : Bit) {dy : Bit} {v : Int}
    (hrange : (alarmDay dy).lo ≤ v ∧ v ≤ (alarmDay dy).hi) :
    (if c then init ++ [dayByte m dy v] else clearDy (init ++ [dayByte m dy v])) =
      init ++ [dayByte m (if c then dy else 0) v] := by
  split
  · rfl
  · rw [clearDy, List.dropLast_concat, List.getLastD_concat, dayByte,
      dayBits_or_and_0xBF m dy _ (bcdByte_day_and_0x3F hrange), dayByte]

/-- Encoding what an alarm 1 image decodes to. -/
theorem alarmEnc_of_alarm1Dec {bs : List Byte} {a : AlarmSpec} (h : alarm1Dec bs = .ok a) :
    alarmEnc a = .ok (if isDayMode a then bs else clearDy bs) := by
  obtain ⟨b0, b1, b2, b3, sec, min, hour, day, mode, rfl, h0, h1, h2, h3, hmode, rfl⟩ := alarm1Dec_eq_ok_iff.mp h
  obtain ⟨hb0, hsec⟩ := (decodeField_and_mask_iff alarmSecond_fits rfl).mp ⟨h0, rfl⟩
  obtain ⟨hb1, hmin⟩ := (decodeField_and_mask_iff alarmMinute_fits rfl).mp ⟨h1, rfl⟩
  obtain ⟨hb2, hhour⟩ := (decodeField_and_mask_iff alarmHour_fits rfl).mp ⟨h2, rfl⟩
  obtain ⟨hb3, hday⟩ := decodeField_alarmDay_and_bits_iff.mp ⟨h3, rfl, rfl⟩
  have hmasks := masks1_of_a1ModeOf hmode sec min hour day
  refine alarmEnc_eq_ok_iff.mpr ⟨⟨hsec, hmin, hhour, ?_⟩, ?_⟩
  · rw [hmasks]
    exact ⟨hday.1, hday.2.trans (alarmDay_hi_le_of_cleared _ _)⟩
  · rw [alarmImage, hmasks, ← hb0, ← hb1, ← hb2]
    have hclear := ite_clearDy_eq (isDayMode (.alarm1 sec min hour day mode) = true) [b0, b1, b2] (bitAt b3 7) hday
    rw [← hb3] at hclear
    exact hclear

/-- Encoding what an alarm 2 image decodes to. -/
theorem alarmEnc_of_alarm2Dec {bs : List Byte} {a : AlarmSpec} (h : alarm2Dec bs = .ok a) :
    alarmEnc a = .ok (if isDayMode a then bs else clearDy bs) := by
  obtain ⟨b0, b1, b2, min, hour, day, mode, rfl, h0, h1, h2, hmode, rfl⟩ := alarm2Dec_eq_ok_iff.mp h
  obtain ⟨hb0, hmin⟩ := (decodeField_and_mask_iff alarmMinute_fits rfl).mp ⟨h0, rfl⟩
  obtain ⟨hb1, hhour⟩ := (decodeField_and_mask_iff alarmHour_fits rfl).mp ⟨h1, rfl⟩
  obtain ⟨hb2, hday⟩ := decodeField_alarmDay_and_bits_iff.mp ⟨h2, rfl, rfl⟩
  have hmasks := masks2_of_a2ModeOf hmode min hour day
  refine alarmEnc_eq_ok_iff.mpr ⟨⟨hmin, hhour, ?_⟩, ?_⟩
  · rw [hmasks]
    exact ⟨hday.1, hday.2.trans (alarmDay_hi_le_of_cleared _ _)⟩
  · rw [alarmImage, hmasks, ← hb0, ← hb1]
    have hclear := ite_clearDy_eq (isDayMode (.alarm2 min hour day mode) = true) [b0, b1] (bitAt b2 7) hday
    rw [← hb2] at hclear
    exact hclear

/-- Settles O43: an image that decodes is an alarm 1 or an alarm 2 image, and either encodes back up to DY. -/
theorem alarmRoundTripFromImages : Obligations.AlarmRoundTripFromImages := by
  intro bs a hdec
  obtain h1 | h2 := alarmDec_eq_ok_iff.mp hdec
  · exact alarmEnc_of_alarm1Dec h1
  · exact alarmEnc_of_alarm2Dec h2

end Sys2Proof.Machine
end

section
/-! PROOFS. The temperature codec (spec/44_temperature_codec.md): an image decodes to its ten-bit word read as a signed
number (R271). The decoder's range and fibres are those of that reading, and the images with bits 5:0 zero are the words
themselves (R272). -/

namespace Sys2Proof.Machine

open Claims

/-! ### The parts of an image -/

theorem sext8_eq_toInt (b : Byte) : sext8 b = b.toInt := by
  rw [sext8, BitVec.toInt_eq_toNat_cond]
  omega

theorem toNat_extractLsb'_six_two (b : Byte) : (b.extractLsb' 6 2).toNat = b.toNat / 64 := by
  rw [BitVec.extractLsb'_toNat, Nat.shiftRight_eq_div_pow]
  omega

theorem toNat_and_0x3F (b : Byte) : (b &&& 0x3F).toNat = b.toNat % 64 :=
  (BitVec.toNat_and ..).trans (Nat.and_two_pow_sub_one_eq_mod _ 6)

/-- A byte with bits 5:0 zero is given by its top two bits. -/
theorem eq_of_ushiftRight_six_eq {b e : Byte} (hb : b &&& 0x3F = 0) (he : e &&& 0x3F = 0) (h : b >>> 6 = e >>> 6) :
    b = e := by
  simp only [← BitVec.toNat_inj, toNat_and_0x3F, BitVec.toNat_ushiftRight, Nat.shiftRight_eq_div_pow] at hb he h ⊢
  omega

/-! ### The ten-bit word of an image (R271) -/

/-- The ten bits `s[0] : s[1][7:6]`, the first byte above the top two bits of the second (R271). -/
def tempWord (b0 b1 : Byte) : BitVec 10 := b0 ++ b1.extractLsb' 6 2

theorem tempWord_eq_or (b0 b1 : Byte) : tempWord b0 b1 = (b0.setWidth 10 <<< 2 ||| (b1 >>> 6).setWidth 10) := by
  have hlow : (b1.extractLsb' 6 2).setWidth 10 = (b1 >>> 6).setWidth 10 := by
    apply BitVec.eq_of_toNat_eq
    rw [BitVec.toNat_setWidth, BitVec.toNat_setWidth, toNat_extractLsb'_six_two, BitVec.toNat_ushiftRight,
      Nat.shiftRight_eq_div_pow]
  rw [tempWord, BitVec.append_def, BitVec.shiftLeftZeroExtend_eq, BitVec.setWidth'_eq, hlow]

/-- The word's sign is the first byte's, so the fraction is added to the signed integer part (R270). -/
theorem toInt_tempWord (b0 b1 : Byte) : (tempWord b0 b1).toInt = 4 * b0.toInt + (b1.toNat / 64 : Nat) := by
  rw [tempWord, BitVec.toInt_append, toNat_extractLsb'_six_two]
  rfl

/-- The fraction is less than the weight 4 of the integer part, so the number determines both. -/
theorem tempWord_inj {b0 b1 e0 e1 : Byte} : tempWord b0 b1 = tempWord e0 e1 ↔ b0 = e0 ∧ b1 >>> 6 = e1 >>> 6 := by
  simp only [← BitVec.toInt_inj (x := tempWord b0 b1), toInt_tempWord, ← BitVec.toInt_inj (x := b0),
    ← BitVec.toNat_inj, BitVec.toNat_ushiftRight, Nat.shiftRight_eq_div_pow]
  omega

/-! ### The decoder (R270) -/

theorem tempDec_pair (b0 b1 : Byte) : tempDec [b0, b1] = .ok (tempWord b0 b1).toInt := by
  rw [toInt_tempWord, tempDec, sext8_eq_toInt, toNat_extractLsb'_six_two]

theorem tempDec_of_length_ne {bs : List Byte} (h : bs.length ≠ 2) :
    tempDec bs = .error (lengthError .temperature 2 bs) := by
  unfold tempDec
  split
  · exact absurd rfl h
  · rfl

theorem exec_tempDec (bs : List Byte) (s : State) :
    exec (.tempDec bs) s = .next (put s [.respond (responseOf .temperature (tempDec bs))]) := rfl

/-- Settles O44: the request responds with `tempDec`'s result, the number of the ten-bit word or the length error. -/
theorem tempDecIsTenBitSigned : Obligations.TempDecIsTenBitSigned := by
  refine ⟨fun bs => Instr.encodes_of_opcodeOf (i := .tempDec bs) rfl, fun b0 b1 s => ⟨?_, ?_⟩, fun bs s hlen => ?_⟩
  · rw [exec_tempDec, tempDec_pair, responseOf_ok, toInt_tempWord]
  · rw [← tempWord_eq_or, toInt_tempWord, Nat.cast_ofNat]
  · rw [exec_tempDec, tempDec_of_length_ne hlen, responseOf_error, lengthError]

/-! ### The images with bits 5:0 zero (R272) -/

/-- The image of a word, the ignored bits zero. -/
def tempImage (w : BitVec 10) : Byte × Byte := (w.extractLsb' 2 8, w.extractLsb' 0 2 ++ 0#6)

theorem tempWord_tempImage (w : BitVec 10) : tempWord (tempImage w).1 (tempImage w).2 = w := by
  rw [tempWord, tempImage, BitVec.extractLsb'_append_eq_left]
  exact (BitVec.extractLsb'_append_extractLsb'_eq_extractLsb' rfl).trans BitVec.extractLsb'_eq_self

theorem tempImage_snd_and_0x3F (w : BitVec 10) : (tempImage w).2 &&& 0x3F = 0 := by
  rw [← BitVec.toNat_inj, toNat_and_0x3F, tempImage, BitVec.toNat_append, BitVec.toNat_zero, Nat.or_zero,
    Nat.shiftLeft_eq]
  exact Nat.mul_mod_left ..

/-- A word's image is its only one with bits 5:0 zero. -/
theorem eq_tempImage_iff {p : Byte × Byte} {w : BitVec 10} :
    p = tempImage w ↔ p.2 &&& 0x3F = 0 ∧ tempWord p.1 p.2 = w := by
  constructor
  · rintro rfl
    exact ⟨tempImage_snd_and_0x3F w, tempWord_tempImage w⟩
  · rintro ⟨hzero, hword⟩
    obtain ⟨hfst, hshift⟩ := tempWord_inj.mp (hword.trans (tempWord_tempImage w).symm)
    exact Prod.ext hfst (eq_of_ushiftRight_six_eq hzero (tempImage_snd_and_0x3F w) hshift)

theorem tempDec_pair_eq_ok_iff {b0 b1 : Byte} {q : Int} (h0 : -512 ≤ q) (h1 : q ≤ 511) :
    tempDec [b0, b1] = .ok q ↔ tempWord b0 b1 = BitVec.ofInt 10 q := by
  rw [tempDec_pair, Except.ok.injEq, ← BitVec.toInt_inj, BitVec.toInt_ofInt_eq_self (by decide) (by omega) (by omega)]

/-- Settles O45: decoding is reading the word as a signed number, and each word has one image with bits 5:0 zero. -/
theorem tempDecIsBijectiveOnCanonicalImages : Obligations.TempDecIsBijectiveOnCanonicalImages := by
  refine ⟨fun b0 b1 => ⟨_, tempDec_pair b0 b1, BitVec.le_toInt _, Int.le_sub_one_of_lt BitVec.toInt_lt⟩,
    fun b0 b1 e0 e1 => ?_, fun q h0 h1 => ?_⟩
  · rw [tempDec_pair, tempDec_pair, Except.ok.injEq, BitVec.toInt_inj, tempWord_inj]
  · simp only [tempDec_pair_eq_ok_iff h0 h1, ← eq_tempImage_iff]
    exact existsUnique_eq

end Sys2Proof.Machine
end

section
/-! PROOFS. The session requests in the statements' words (spec/45_orchestrator.md R280): each operation of Ops.lean as
one of the shapes `waiting`, `given` and `done`, and one answer taken in a waiting phase. -/

namespace Sys2Proof.Machine

open Claims

/-! ### The operations as shapes of a next state -/

/-- What was put out before a request completes is put out first. -/
@[simp] theorem done_put (s : State) (es es' : List Event) (as : List Draw) :
    done (put s es) as es' = done s as (es ++ es') := by
  simp only [done, put, List.append_assoc]

@[simp] theorem done_given (s : State) (as as' : List Draw) (es : List Event) :
    done (given s as) as' es = done s as' es := rfl

@[simp] theorem done_waiting (s : State) (i : Instr) (p : Phase) (x : Txn) (as : List Draw) (es : List Event) :
    done (waiting s i p x) as es = done s as (.issue x :: es) := done_put s [.issue x] es as

@[simp] theorem given_answers (s : State) (as : List Draw) : (given s as).answers = as := rfl

@[simp] theorem given_given (s : State) (as as' : List Draw) : given (given s as) as' = given s as' := rfl

theorem given_of_answers_eq {s : State} {as : List Draw} (h : s.answers = as) : given s as = s := by
  rw [← h, given]

theorem State.complete_eq_done (s : State) (r : Response) : s.complete r = done s s.answers [.respond r] := rfl

theorem State.fail_eq_done (s : State) (op : Opcode) (e : Error) : s.fail op e = done s s.answers (failing op e) :=
  done_put s [.log ⟨op, e⟩] [.respond (.err e)] s.answers

theorem State.failUnset_eq_done (s : State) (e : Error) :
    s.failUnset e = done s s.answers (maybeLog e ++ [.respond .unset]) :=
  done_put s (maybeLog e) [.respond .unset] s.answers

theorem State.completeWith_eq_done {α : Type} (s : State) (op : Opcode) (wrap : α → Value) (x : Except Error α) :
    s.completeWith op wrap x = done s s.answers (ending op (x.map wrap)) := by
  cases x with
  | ok v => exact s.complete_eq_done _
  | error e => exact s.fail_eq_done op e

/-! ### One answer taken -/

/-- The answer step of each waiting phase; `Idle` has none. -/
def Phase.answerStep : Phase → Draw → State → Outcome
  | .idle => fun _ s => .next s
  | .waitOpen => answerOpen
  | .waitTimeRead => answerTimeRead
  | .stWaitStatusRead => answerStatusRead
  | .stWaitDateWrite => answerDateWrite
  | .stWaitStatusWrite => answerStatusWrite
  | .auxWaitRead r => answerAuxRead r
  | .auxWaitWrite r => answerAuxWrite r

/-- A waiting block takes the next answer by its phase's answer step (R280(b)). -/
theorem step_given {s : State} {p : Phase} (hs : s.phase = p) (hp : p ≠ .idle) (a : Draw) (as : List Draw) :
    step (given s (a :: as)) = p.answerStep a (given s as) := by
  have hphase : (given s (a :: as)).phase = p := hs
  unfold step advance
  rw [hphase]
  cases p with
  | idle => exact absurd rfl hp
  | _ => rfl

/-- A transport error ends the request with that error, but for OPEN, which reads its request first, and GET_TIME, which
responds `Unset` (R292, R348). -/
theorem Phase.answerStep_err {p : Phase} {op : Opcode} (hop : p.opcode = some op) (hopen : p ≠ .waitOpen)
    (htime : p ≠ .waitTimeRead) (e : TransportErr) (s : State) :
    p.answerStep (.err e) s = .next (s.fail op (.transport e)) := by
  cases p with
  | idle => cases hop
  | waitOpen => exact absurd rfl hopen
  | waitTimeRead => exact absurd rfl htime
  | _ => cases hop; rfl

theorem step_given_waiting {p : Phase} (hp : p ≠ .idle) (s : State) (i : Instr) (x : Txn) (a : Draw) (as : List Draw) :
    step (given (waiting s i p x) (a :: as)) = p.answerStep a (given (waiting s i p x) as) :=
  step_given rfl hp a as

theorem step_given_waiting_err {p : Phase} {op : Opcode} (hop : p.opcode = some op) (hopen : p ≠ .waitOpen)
    (htime : p ≠ .waitTimeRead) (s : State) (i : Instr) (x : Txn) (e : TransportErr) (as : List Draw) :
    step (given (waiting s i p x) (.err e :: as)) = .next (done s as (.issue x :: failing op (.transport e))) := by
  have hidle : p ≠ .idle := by rintro rfl; cases hop
  rw [step_given_waiting hidle, Phase.answerStep_err hop hopen htime, State.fail_eq_done, done_given, done_waiting]
  rfl

/-! ### Acceptance (R280(a), R351) -/

theorem step_of_idle {s : State} {r : Request} {rest : List Request} {i : Instr} (hidle : s.phase = .idle)
    (hreq : s.requests = r :: rest) (hdec : decode r = .instr i) : step s = exec i { s with requests := rest } := by
  simp only [step, advance, hidle, accept, hreq, runDecoded, hdec]

/-- Every session request but OPEN reads the session behind the mode check, and then always gives a next state. -/
theorem exec_eq_inOpen {i : Instr} (hcodec : i.isCodec = false) (hopen : i.opcode ≠ .openBus) :
    ∃ f : DriverSession → State → State, ∀ s, exec i s = s.inOpen i.opcode fun d => .next (f d s) := by
  cases i with
  | openBus cfg => exact absurd rfl hopen
  | getTime => exact ⟨_, fun _ => rfl⟩
  | setTime t => exact ⟨_, fun _ => rfl⟩
  | terminate => exact ⟨_, fun _ => rfl⟩
  | getStatus => exact ⟨_, fun _ => rfl⟩
  | setStatus f => exact ⟨_, fun _ => rfl⟩
  | getControl => exact ⟨_, fun _ => rfl⟩
  | setControl f => exact ⟨_, fun _ => rfl⟩
  | getAlarm1 => exact ⟨_, fun _ => rfl⟩
  | getAlarm2 => exact ⟨_, fun _ => rfl⟩
  | setAlarm a =>
    cases he : alarmEnc a with
    | error x => exact ⟨fun _ s => s.fail .setAlarm x, fun s => by simp only [exec, execSetAlarm, he, Instr.opcode]⟩
    | ok img =>
      exact ⟨fun d s => s.start (.setAlarm a) (.auxWaitWrite (alarmTarget a)) (d.write (alarmTarget a).chipReg img),
        fun s => by simp only [exec, execSetAlarm, he, Instr.opcode]⟩
  | getTemperature => exact ⟨_, fun _ => rfl⟩
  | _ => cases hcodec

theorem Mode.eq_closed_of_ne_opened {m : Mode} (h : m ≠ .opened) : m = .closed := by
  cases m with
  | closed => rfl
  | opened => exact absurd rfl h

/-- R351, for the requests that are legal in Open only. -/
theorem legalOnlyIn_opened {i : Instr} (hcodec : i.isCodec = false) (hopen : i.opcode ≠ .openBus) :
    LegalOnlyIn .opened i := by
  intro s hm
  obtain ⟨f, hf⟩ := exec_eq_inOpen hcodec hopen
  have hclosed := Mode.eq_closed_of_ne_opened hm
  rw [hf, State.inOpen_of_closed hclosed, hclosed]

/-! ### Runs -/

theorem run_succ_of_step {s t : State} (h : step s = .next t) (k : Nat) :
    Host.Core.run core (k + 1) s = Host.Core.run core k t := by
  have hcore : core.step s = .next t := h
  simp only [Host.Core.run, hcore]

theorem run_one_of_step {s t : State} (h : step s = .next t) : Host.Core.run core 1 s = .next t :=
  run_succ_of_step h 0

end Sys2Proof.Machine
end

section
/-! PROOFS. OPEN, GET_TIME and TERMINATE (spec/45_orchestrator.md R282, R285, R300). -/

namespace Sys2Proof.Machine

open Claims

/-- Settles O46: OPEN's request is latched when its answer comes, so the session is written from it. -/
theorem openAcquiresTheBusOrStaysClosed : Obligations.OpenAcquiresTheBusOrStaysClosed := by
  refine ⟨fun cfg => ⟨Instr.encodes_of_opcodeOf (i := .openBus cfg) rfl, fun s hm => ?_⟩, fun s cfg hm => ?_⟩
  · cases h : s.mode with
    | closed => exact absurd h hm
    | opened => simp only [exec, execOpenBus, h]; rfl
  · refine ⟨by simp only [exec, execOpenBus, hm]; rfl, fun as => ⟨fun h bs => ?_, fun e => ?_⟩⟩ <;>
      rw [step_given_waiting (p := .waitOpen) nofun, ← done_waiting s (.openBus cfg) .waitOpen]
    · rfl
    · exact congrArg _ (State.fail_eq_done ..)

theorem exec_getTime {s : State} {d : DriverSession} (hm : s.mode = .opened) (hd : s.session = some d) :
    exec .getTime s = .next (waiting s .getTime .waitTimeRead (d.read .time)) := State.inOpen_of_opened hm hd

theorem answerTimeRead_of_ok {s : State} {d : DriverSession} {bs : List Byte} {x : CalendarTime}
    (hd : s.session = some d) (hdec : timeDec bs d.century0 = .ok x) (h : BusHandle) :
    answerTimeRead (.ok h bs) s = .next (done s s.answers [.respond (.ok (.time x))]) := by
  simp only [answerTimeRead, State.withSession_of_some hd, hdec, State.complete_eq_done]

theorem answerTimeRead_of_error {s : State} {d : DriverSession} {bs : List Byte} {e : Error}
    (hd : s.session = some d) (hdec : timeDec bs d.century0 = .error e) (h : BusHandle) :
    answerTimeRead (.ok h bs) s = .next (done s s.answers (maybeLog e ++ [.respond .unset])) := by
  simp only [answerTimeRead, State.withSession_of_some hd, hdec, State.failUnset_eq_done]

theorem answerTimeRead_err (e : TransportErr) (s : State) :
    answerTimeRead (.err e) s = .next (done s s.answers (maybeLog (.transport e) ++ [.respond .unset])) := by
  simp only [answerTimeRead, State.failUnset_eq_done]

/-- Settles O47: the answer step completes the waiting request by what `timeDec` makes of the bytes. -/
theorem getTimeDecodesOrIsUnset : Obligations.GetTimeDecodesOrIsUnset := by
  refine ⟨Instr.encodes_of_opcodeOf (i := .getTime) rfl, legalOnlyIn_opened rfl nofun, fun s d hm hd => ?_⟩
  refine ⟨exec_getTime hm hd, fun as => ⟨fun h bs => ?_, fun e => ?_⟩⟩ <;>
    rw [step_given_waiting (p := .waitTimeRead) nofun, ← done_waiting s .getTime .waitTimeRead]
  · have hsession : (given (waiting s .getTime .waitTimeRead (d.read .time)) as).session = some d := hd
    cases hdec : timeDec bs d.century0 with
    | ok x => exact answerTimeRead_of_ok hsession hdec h
    | error e => exact answerTimeRead_of_error hsession hdec h
  · exact answerTimeRead_err e _

/-- Settles O50: the request ends in its accepting step, with the release put out before the response. -/
theorem terminateReleasesAndCloses : Obligations.TerminateReleasesAndCloses := by
  refine ⟨Instr.encodes_of_opcodeOf (i := .terminate) rfl, legalOnlyIn_opened rfl nofun, fun s d hm hd => ?_⟩
  have hexec : exec .terminate s =
      .next ((s.emit (.issue (.busRelease d.busHandle))).closeSession.complete (.ok .unit)) :=
    State.inOpen_of_opened hm hd
  have hdone : done (s.emit (.issue (.busRelease d.busHandle))) s.answers [.respond (.ok .unit)] =
      done s s.answers [.issue (.busRelease d.busHandle), .respond (.ok .unit)] := done_put ..
  rw [hexec, ← hdone]
  rfl

end Sys2Proof.Machine
end

section
/-! PROOFS. The accessors (spec/45_orchestrator.md R303 to R310): one theorem for the reads and one for the writes. -/

namespace Sys2Proof.Machine

open Claims

/-! ### The reads (R303, R305, R307, R309) -/

/-- The decoder of an accessor read, its result as the response's value. -/
def AuxRead.decode : AuxRead → List Byte → Except Error Value
  | .status => fun bs => (statusDec bs).map .status
  | .control => fun bs => (controlDec bs).map .control
  | .alarm1 => fun bs => (alarm1Dec bs).map .alarm
  | .alarm2 => fun bs => (alarm2Dec bs).map .alarm
  | .temperature => fun bs => (tempDec bs).map .temperature

theorem completeRead_eq_done (r : AuxRead) (bs : List Byte) (s : State) :
    completeRead r bs s = done s s.answers (ending r.opcode (r.decode bs)) := by
  cases r <;> exact State.completeWith_eq_done ..

theorem AuxRead.opcode_request (r : AuxRead) : r.request.opcode = r.opcode := by cases r <;> rfl

theorem AuxRead.operand_request (r : AuxRead) : r.request.operand = .f0 := by cases r <;> rfl

theorem AuxRead.exec_request (r : AuxRead) (s : State) : exec r.request s = startRead r.request r s := by
  cases r <;> rfl

/-- Every accessor read has the one shape, with its register's place in the map and its own decoder. -/
theorem AuxRead.readsThrough (r : AuxRead) {op : Byte} (hop : opcodeOf op = some r.opcode) :
    ReadsThrough r.request op r r.opcode r.chipReg.offset r.chipReg.length r.decode := by
  refine ⟨?_, ?_, fun s d hm hd => ⟨?_, fun as => ⟨fun h bs => ?_, fun e => ?_⟩⟩⟩
  · rw [← r.operand_request]
    exact Instr.encodes_of_opcodeOf (r.opcode_request ▸ hop)
  · cases r <;> exact legalOnlyIn_opened rfl nofun
  · rw [r.exec_request]
    exact State.inOpen_of_opened hm hd
  · rw [step_given_waiting (p := .auxWaitRead r) nofun, ← done_waiting s r.request (.auxWaitRead r)]
    exact congrArg _ (completeRead_eq_done r bs _)
  · exact step_given_waiting_err (p := .auxWaitRead r) rfl nofun nofun ..

/-- Settles O51: three of the reads. -/
theorem statusControlTemperatureReads : Obligations.StatusControlTemperatureReads :=
  ⟨AuxRead.status.readsThrough rfl, AuxRead.control.readsThrough rfl, AuxRead.temperature.readsThrough rfl⟩

/-- Settles O52: the other two, whose decoders the tables of R241 and R242 give. -/
theorem alarmReadsUseFixedLengthDecoders : Obligations.AlarmReadsUseFixedLengthDecoders := by
  have hdec1 : AuxRead.alarm1.decode = fun bs => (alarm1DecResult bs).map .alarm :=
    funext fun bs => congrArg (Except.map Value.alarm) (alarm1Dec_eq_alarm1DecResult bs)
  have hdec2 : AuxRead.alarm2.decode = fun bs => (alarm2DecResult bs).map .alarm :=
    funext fun bs => congrArg (Except.map Value.alarm) (alarm2Dec_eq_alarm2DecResult bs)
  exact ⟨hdec1 ▸ AuxRead.alarm1.readsThrough rfl, hdec2 ▸ AuxRead.alarm2.readsThrough rfl⟩

/-! ### The writes (R304, R306, R308) -/

/-- Whatever accessor issues it, an accessor write completes on its answer. -/
theorem AuxWrite.writesThrough (r : AuxWrite) {i : Instr} {img : List Byte}
    (hexec : ∀ (s : State) (d : DriverSession), s.mode = .opened → s.session = some d →
      exec i s = .next (s.start i (.auxWaitWrite r) (d.write r.chipReg img))) :
    WritesThrough i r r.opcode r.chipReg.offset img := by
  refine fun s d hm hd => ⟨hexec s d hm hd, fun as => ⟨fun h bs => ?_, fun e => ?_⟩⟩
  · rw [step_given_waiting (p := .auxWaitWrite r) nofun, ← done_waiting s i (.auxWaitWrite r)]
    rfl
  · exact step_given_waiting_err (p := .auxWaitWrite r) rfl nofun nofun ..

theorem setStatus_writesThrough (f : StatusFlags) :
    WritesThrough (.setStatus f) .status .setStatus 0x0F [statusEnc f] :=
  AuxWrite.status.writesThrough fun _ _ hm hd => State.inOpen_of_opened hm hd

theorem setControl_writesThrough (f : ControlFlags) :
    WritesThrough (.setControl f) .control .setControl 0x0E [controlEnc f] :=
  AuxWrite.control.writesThrough fun _ _ hm hd => State.inOpen_of_opened hm hd

/-- Settles O53: both are accessor writes of one encoded byte. -/
theorem statusControlWrites : Obligations.StatusControlWrites :=
  ⟨fun f => ⟨Instr.encodes_of_opcodeOf (i := .setStatus f) rfl, legalOnlyIn_opened rfl nofun,
    setStatus_writesThrough f⟩,
   fun f => ⟨Instr.encodes_of_opcodeOf (i := .setControl f) rfl, legalOnlyIn_opened rfl nofun,
    setControl_writesThrough f⟩⟩

theorem exec_setAlarm_of_ok {s : State} {d : DriverSession} {a : AlarmSpec} {img : List Byte} (hm : s.mode = .opened)
    (hd : s.session = some d) (henc : alarmEnc a = .ok img) :
    exec (.setAlarm a) s =
      .next (s.start (.setAlarm a) (.auxWaitWrite (alarmTarget a)) (d.write (alarmTarget a).chipReg img)) := by
  simp only [exec, execSetAlarm, State.inOpen_of_opened hm hd, henc]

theorem exec_setAlarm_of_error {s : State} {d : DriverSession} {a : AlarmSpec} {x : Error} (hm : s.mode = .opened)
    (hd : s.session = some d) (henc : alarmEnc a = .error x) :
    exec (.setAlarm a) s = .next (done s s.answers (failing .setAlarm x)) := by
  simp only [exec, execSetAlarm, State.inOpen_of_opened hm hd, henc, State.fail_eq_done]

/-- A spec in range is written as its image at the base of its alarm. -/
theorem setAlarm_writesThrough {a : AlarmSpec} (h : firstBadAlarmField a = none) :
    WritesThrough (.setAlarm a) (alarmTarget a) (alarmTarget a).opcode (alarmTarget a).chipReg.offset
      (bytesOf (alarmImageInts a)) := by
  have henc := alarmEnc_eq_failOr_bytesOf a
  rw [h] at henc
  exact (alarmTarget a).writesThrough fun s d hm hd => exec_setAlarm_of_ok hm hd henc

/-- A field out of range fails before any transaction. -/
theorem exec_setAlarm_of_bad {a : AlarmSpec} {f : FieldName} {s : State} {d : DriverSession} (hm : s.mode = .opened)
    (hd : s.session = some d) (h : firstBadAlarmField a = some f) :
    exec (.setAlarm a) s = .next (done s s.answers (failing .setAlarm (.range f))) := by
  have henc := alarmEnc_eq_failOr_bytesOf a
  rw [h] at henc
  exact exec_setAlarm_of_error hm hd henc

/-- Settles O54: `alarmEnc`'s result decides between the write and the failure. -/
theorem setAlarmWritesOrFailsBeforeTheBus : Obligations.SetAlarmWritesOrFailsBeforeTheBus :=
  ⟨fun a => ⟨Instr.encodes_of_opcodeOf (i := .setAlarm a) rfl, legalOnlyIn_opened rfl nofun⟩,
   fun _ _ _ _ _ hok => setAlarm_writesThrough hok,
   fun _ _ _ _ hok => setAlarm_writesThrough hok,
   fun _ _ _ _ hm hd hbad => exec_setAlarm_of_bad hm hd hbad⟩

/-! ### The session under the accessors (R310) -/

/-- Only OPEN's answer writes the session. -/
theorem Answers.session_eq {s t : State} {a : Draw} (h : Answers s a t) (hp : s.phase ≠ .waitOpen) :
    t.mode = s.mode ∧ t.session = s.session := by
  cases h with
  | opened cfg h bs hopen => exact absurd hopen hp
  | _ => exact ⟨rfl, rfl⟩

/-- Of the requests' acceptances only TERMINATE's takes the session. -/
theorem Accepts.session_eq {s t : State} {i : Instr} (h : Accepts s i t) (hi : i ≠ .terminate) :
    t.mode = s.mode ∧ t.session = s.session := by
  cases h with
  | terminates d hterm => exact absurd hterm hi
  | _ => exact ⟨rfl, rfl⟩

/-- Settles O55: a waiting accessor is not OPEN, and an accepted one is not TERMINATE. -/
theorem accessorsKeepTheSession : Obligations.AccessorsKeepTheSession := by
  intro s t hstep haccessor
  cases step_moves hstep with
  | waits => exact ⟨rfl, rfl⟩
  | accepts r rest i _ hidle hreq hdec haccepts =>
    refine haccepts.session_eq ?_
    rintro rfl
    obtain ⟨r', hread⟩ | ⟨r', hwrite⟩ | ⟨-, q, j, hreq', hdec', hmem⟩ := haccessor
    · rw [hidle] at hread; cases hread
    · rw [hidle] at hwrite; cases hwrite
    · rw [hreq] at hreq'
      cases hreq'
      rw [hdec] at hdec'
      cases hdec'
      revert hmem
      decide
  | answers a rest _ hbusy hans hanswers =>
    refine hanswers.session_eq fun (hopen : s.phase = .waitOpen) => ?_
    simp [hopen] at haccessor

end Sys2Proof.Machine
end

section
/-! PROOFS. SET_TIME (spec/45_orchestrator.md R290, R294): the states between its steps, and what each answer makes of
them. -/

namespace Sys2Proof.Machine

open Claims

variable {s : State} {d : DriverSession} {t : CalendarTime} {b : Byte} {img : Vector Byte 7}

/-! ### The states between the steps -/

/-- SET_TIME accepted, its status read in flight. -/
def readingStatus (s : State) (d : DriverSession) (t : CalendarTime) : State :=
  waiting s (.setTime t) .stWaitStatusRead (d.read .status)

/-- The status byte kept, the image encoded, its write in flight. -/
def writingDate (s : State) (d : DriverSession) (b : Byte) (img : Vector Byte 7) : State :=
  { s with stRaw := some b, img := some img }.issue .stWaitDateWrite (d.write .time img.toList)

/-- The kept byte's write-back in flight. -/
def writingStatus (s : State) (d : DriverSession) (b : Byte) : State :=
  { s with stWb := some (b &&& 0x0F) }.issue .stWaitStatusWrite (d.write .status [b &&& 0x0F])

@[simp] theorem done_readingStatus (as : List Draw) (es : List Event) :
    done (readingStatus s d t) as es = done s as (.issue (d.read .status) :: es) := done_waiting ..

@[simp] theorem done_writingDate (as : List Draw) (es : List Event) :
    done (writingDate s d b img) as es = done s as (.issue (d.write .time img.toList) :: es) :=
  done_put s [.issue (d.write .time img.toList)] es as

@[simp] theorem done_writingStatus (as : List Draw) (es : List Event) :
    done (writingStatus s d b) as es = done s as (.issue (d.write .status [b &&& 0x0F]) :: es) :=
  done_put s [.issue (d.write .status [b &&& 0x0F])] es as

theorem exec_setTime (hm : s.mode = .opened) (hd : s.session = some d) (t : CalendarTime) :
    exec (.setTime t) s = .next (readingStatus s d t) := State.inOpen_of_opened hm hd

/-! ### One answer in each of its phases -/

/-- A transport error at any of the three transactions ends SET_TIME (R292). -/
theorem step_given_err_of_setTime (hop : s.phase.opcode = some .setTime) (e : TransportErr) (as : List Draw) :
    step (given s (.err e :: as)) = .next (done s as (failing .setTime (.transport e))) := by
  have hidle : s.phase ≠ .idle := fun h => by rw [h] at hop; cases hop
  have hopen : s.phase ≠ .waitOpen := fun h => by rw [h] at hop; cases hop
  have htime : s.phase ≠ .waitTimeRead := fun h => by rw [h] at hop; cases hop
  rw [step_given rfl hidle, Phase.answerStep_err hop hopen htime, State.fail_eq_done]
  rfl

theorem step_readingStatus_of_length_ne {bs : List Byte} (hlen : bs.length ≠ 1) (h : BusHandle) (as : List Draw) :
    step (given (readingStatus s d t) (.ok h bs :: as)) =
      .next (done s as (.issue (d.read .status) :: failing .setTime (.format .status (min bs.length 1)))) := by
  rw [← done_readingStatus (t := t), step_given (p := .stWaitStatusRead) rfl nofun, Phase.answerStep, answerStatusRead,
    statusDec_of_length_ne hlen]
  exact congrArg _ (State.fail_eq_done ..)

/-- With a status byte read, the encoder decides. -/
theorem step_readingStatus (hd : s.session = some d) (h : BusHandle) (b : Byte) (as : List Draw) :
    step (given (readingStatus s d t) (.ok h [b] :: as)) =
      .next (setTimeEncode t d { given (readingStatus s d t) as with stRaw := some b }) := by
  have hsession : (given (readingStatus s d t) as).session = some d := hd
  rw [step_given (p := .stWaitStatusRead) rfl nofun, Phase.answerStep, answerStatusRead, statusDec_singleton,
    State.withSession_of_some hsession]
  rfl

theorem step_readingStatus_of_error {x : Error} (hd : s.session = some d) (henc : timeEnc t d.century0 = .error x)
    (h : BusHandle) (b : Byte) (as : List Draw) :
    step (given (readingStatus s d t) (.ok h [b] :: as)) =
      .next (done s as (.issue (d.read .status) :: failing .setTime x)) := by
  rw [← done_readingStatus (t := t), step_readingStatus hd, setTimeEncode, henc]
  exact congrArg _ (State.fail_eq_done ..)

theorem step_readingStatus_of_ok (hd : s.session = some d) (henc : timeEnc t d.century0 = .ok img)
    (h : BusHandle) (b : Byte) (as : List Draw) :
    step (given (readingStatus s d t) (.ok h [b] :: as)) =
      .next (given (writingDate (readingStatus s d t) d b img) as) := by
  rw [step_readingStatus hd, setTimeEncode, henc]
  rfl

/-- The write-back is the byte kept from step 1, through the status codec (R204, R294). -/
theorem step_writingDate (hd : s.session = some d) (h : BusHandle) (bs : List Byte) (as : List Draw) :
    step (given (writingDate s d b img) (.ok h bs :: as)) =
      .next (given (writingStatus (writingDate s d b img) d b) as) := by
  have hsession : (given (writingDate s d b img) as).session = some d := hd
  rw [step_given (p := .stWaitDateWrite) rfl nofun, Phase.answerStep, answerDateWrite,
    State.withSession_of_some hsession, writingStatus, ← statusClearOsf_eq]
  rfl

/-! ### The whole request -/

/-- A time with every field in range encodes to the bytes of the tables. -/
theorem timeEnc_of_good {c0 : Int} (h : firstBadTimeField t c0 = none) :
    ∃ img, timeEnc t c0 = .ok img ∧ img.toList = bytesOf (timeImageInts t c0) := by
  have henc := timeEnc_eq_failOr t c0
  rw [h] at henc
  exact ⟨_, henc, timeImage_toList_eq_bytesOf (timeEnc_eq_ok_iff_valid.mp henc).1⟩

theorem timeEnc_of_bad {c0 : Int} {f : FieldName} (h : firstBadTimeField t c0 = some f) :
    timeEnc t c0 = .error (.range f) := by
  rw [timeEnc_eq_failOr, h, failOr_some]

/-- The date write failed: both transactions so far were issued, and no write-back. -/
theorem step_writingDate_err (e : TransportErr) (as : List Draw) :
    step (given (writingDate (readingStatus s d t) d b img) (.err e :: as)) =
      .next (done s as ([.issue (d.read .status), .issue (d.write .time img.toList)] ++
        failing .setTime (.transport e))) := by
  rw [step_given_err_of_setTime (s := writingDate _ d b img) rfl, done_writingDate, done_readingStatus]
  rfl

theorem step_writingStatus_err (e : TransportErr) (as : List Draw) :
    step (given (writingStatus (writingDate (readingStatus s d t) d b img) d b) (.err e :: as)) =
      .next (done s as ([.issue (d.read .status), .issue (d.write .time img.toList),
        .issue (d.write .status [b &&& 0x0F])] ++ failing .setTime (.transport e))) := by
  rw [step_given_err_of_setTime (s := writingStatus _ d b) rfl, done_writingStatus, done_writingDate,
    done_readingStatus]
  rfl

theorem step_writingStatus_ok (h : BusHandle) (bs : List Byte) (as : List Draw) :
    step (given (writingStatus (writingDate (readingStatus s d t) d b img) d b) (.ok h bs :: as)) =
      .next (done s as [.issue (d.read .status), .issue (d.write .time img.toList),
        .issue (d.write .status [b &&& 0x0F]), .respond (.ok .unit)]) := by
  rw [step_given (p := .stWaitStatusWrite) rfl nofun, Phase.answerStep, answerStatusWrite, State.complete_eq_done,
    done_given, done_writingStatus, done_writingDate, done_readingStatus]
  rfl

/-- Settles O49: each answer's step is one of the lemmas above, and the run is their chain. -/
theorem setTimeRunsOrStopsAtTheFailedStep : Obligations.SetTimeRunsOrStopsAtTheFailedStep := by
  refine ⟨fun t => ⟨Instr.encodes_of_opcodeOf (i := .setTime t) rfl, legalOnlyIn_opened rfl nofun⟩,
    fun s d t as hm hd => ?_⟩
  refine ⟨exec_setTime hm hd t, fun e => ?_, fun h bs hlen => ?_, fun h b f hbad => ?_, fun hgood => ?_⟩
  · exact run_one_of_step (step_given_waiting_err (p := .stWaitStatusRead) rfl nofun nofun ..)
  · exact run_one_of_step (step_readingStatus_of_length_ne hlen h as)
  · exact run_one_of_step (step_readingStatus_of_error hd (timeEnc_of_bad hbad) h b as)
  · obtain ⟨img, henc, himg⟩ := timeEnc_of_good hgood
    rw [← himg]
    have hread := fun h b as => run_succ_of_step (step_readingStatus_of_ok hd henc h b as)
    have hdate := fun b h bs as =>
      run_succ_of_step (step_writingDate (s := readingStatus s d t) (b := b) (img := img) hd h bs as)
    refine ⟨fun h b e => ?_, fun h b h3 x3 e => ?_, fun h b h3 x3 h5 x5 => ?_⟩
    · exact (hread h b _ 1).trans (run_one_of_step (step_writingDate_err e as))
    · exact (hread h b _ 2).trans ((hdate b h3 x3 _ 1).trans (run_one_of_step (step_writingStatus_err e as)))
    · exact (hread h b _ 2).trans ((hdate b h3 x3 _ 1).trans (run_one_of_step (step_writingStatus_ok h5 x5 as)))

end Sys2Proof.Machine
end

section
/-! PROOFS. Every accepted request completes (spec/45_orchestrator.md R313): the answers each request's
statement speaks of, counted. -/

namespace Sys2Proof.Machine

open Claims

/-- `t` is `s` with its request completed: the block idle, the request port unchanged, one response more. -/
def State.Completed (s t : State) : Prop :=
  t.phase = .idle ∧ t.requests = s.requests ∧ ∃ x, t.responses = s.responses ++ [x]

/-- Accepting `i` in `s` gives a next state from which at most `n` steps complete it. -/
def CompletesWithin (n : Nat) (i : Instr) (s : State) : Prop :=
  ∃ k u t, k ≤ n ∧ exec i s = .next u ∧ Host.Core.run core k u = .next t ∧ s.Completed t

@[simp] theorem responses_done (s : State) (as : List Draw) (es : List Event) :
    (done s as es).responses = s.responses ++ responsesIn es := responsesIn_append ..

theorem completed_done {s : State} {as : List Draw} {es : List Event} {x : Response} (h : responsesIn es = [x]) :
    s.Completed (done s as es) := ⟨rfl, rfl, x, by rw [responses_done, h]⟩

theorem responsesIn_ending (op : Opcode) (x : Except Error Value) : ∃ r, responsesIn (ending op x) = [r] := by
  cases x with
  | ok v => exact ⟨.ok v, rfl⟩
  | error e => exact ⟨.err e, rfl⟩

@[simp] theorem responsesIn_maybeLog (e : Error) : responsesIn (maybeLog e) = [] := by
  unfold maybeLog
  split <;> rfl

/-! ### Without an answer, and with one -/

theorem completesWithin_of_exec {n : Nat} {i : Instr} {s t : State} (h : exec i s = .next t) (ht : s.Completed t) :
    CompletesWithin n i s := ⟨0, t, t, n.zero_le, h, rfl, ht⟩

/-- One answer at hand, and a waiting state that completes whatever the answer is. -/
theorem completesWithin_one_of_step {i : Instr} {s : State} {p : Phase} {x : Txn}
    (hexec : exec i s = .next (waiting s i p x)) (hlen : 1 ≤ s.answers.length)
    (hstep : ∀ a as, ∃ t, step (given (waiting s i p x) (a :: as)) = .next t ∧ s.Completed t) :
    CompletesWithin 1 i s := by
  obtain ⟨a, as, hans⟩ := List.exists_cons_of_length_pos hlen
  obtain ⟨t, ht, hdone⟩ := hstep a as
  rw [given_of_answers_eq (s := waiting s i p x) hans] at ht
  exact ⟨1, _, t, le_rfl, hexec, run_one_of_step ht, hdone⟩

theorem AuxRead.completes (r : AuxRead) {s : State} {d : DriverSession} (hm : s.mode = .opened)
    (hd : s.session = some d) (hlen : 1 ≤ s.answers.length) : CompletesWithin 1 r.request s := by
  obtain ⟨-, -, hopened⟩ := r.readsThrough (opcodeOf_byte _)
  obtain ⟨hexec, hstep⟩ := hopened s d hm hd
  refine completesWithin_one_of_step hexec hlen fun a as => ?_
  obtain ⟨hok, herr⟩ := hstep as
  cases a with
  | ok h bs =>
    obtain ⟨x, hx⟩ := responsesIn_ending r.opcode (r.decode bs)
    exact ⟨_, hok h bs, completed_done hx⟩
  | err e => exact ⟨_, herr e, completed_done rfl⟩

theorem completesWithin_of_writesThrough {i : Instr} {p : AuxWrite} {o : Opcode} {off : Byte} {img : List Byte}
    {s : State} {d : DriverSession} (h : WritesThrough i p o off img)
    (hm : s.mode = .opened) (hd : s.session = some d) (hlen : 1 ≤ s.answers.length) : CompletesWithin 1 i s := by
  obtain ⟨hexec, hstep⟩ := h s d hm hd
  refine completesWithin_one_of_step hexec hlen fun a as => ?_
  obtain ⟨hok, herr⟩ := hstep as
  cases a with
  | ok h bs => exact ⟨_, hok h bs, completed_done rfl⟩
  | err e => exact ⟨_, herr e, completed_done rfl⟩

theorem openBus_completes {cfg : OpenConfig} {s : State} (hm : s.mode = .closed) (hlen : 1 ≤ s.answers.length) :
    CompletesWithin 1 (.openBus cfg) s := by
  obtain ⟨-, hclosed⟩ := openAcquiresTheBusOrStaysClosed
  obtain ⟨hexec, hstep⟩ := hclosed s cfg hm
  refine completesWithin_one_of_step hexec hlen fun a as => ?_
  obtain ⟨hok, herr⟩ := hstep as
  cases a with
  | ok h bs => exact ⟨_, hok h bs, rfl, rfl, .ok .unit, responses_done s as _⟩
  | err e => exact ⟨_, herr e, completed_done rfl⟩

section Opened

variable {s : State} {d : DriverSession} (hm : s.mode = .opened) (hd : s.session = some d)
include hm hd

theorem getTime_completes (hlen : 1 ≤ s.answers.length) : CompletesWithin 1 .getTime s := by
  obtain ⟨-, -, hopened⟩ := getTimeDecodesOrIsUnset
  obtain ⟨hexec, hstep⟩ := hopened s d hm hd
  refine completesWithin_one_of_step hexec hlen fun a as => ?_
  obtain ⟨hok, herr⟩ := hstep as
  cases a with
  | err e => exact ⟨_, herr e, completed_done (x := .unset) (by simp)⟩
  | ok h bs =>
    refine ⟨_, hok h bs, ?_⟩
    cases timeDec bs d.century0 with
    | ok x => exact completed_done rfl
    | error e => exact completed_done (x := .unset) (by simp)

/-- The answers decide after which of the three steps SET_TIME ends. -/
theorem setTime_completes {t : CalendarTime} (hlen : 3 ≤ s.answers.length) : CompletesWithin 3 (.setTime t) s := by
  obtain ⟨-, hopened⟩ := setTimeRunsOrStopsAtTheFailedStep
  obtain ⟨a1, a2, a3, as, hans⟩ : ∃ a1 a2 a3 as, s.answers = a1 :: a2 :: a3 :: as := by
    match s.answers, hlen with
    | a1 :: a2 :: a3 :: as, _ => exact ⟨a1, a2, a3, as, rfl⟩
  obtain ⟨hexec, herr1, hlength, hrange, -⟩ := hopened s d t (a2 :: a3 :: as) hm hd
  obtain ⟨-, -, -, -, hgood2⟩ := hopened s d t (a3 :: as) hm hd
  obtain ⟨-, -, -, -, hgood3⟩ := hopened s d t as hm hd
  have haccept : exec (.setTime t) s = .next (given (readingStatus s d t) (a1 :: a2 :: a3 :: as)) := by
    rw [given_of_answers_eq (s := readingStatus s d t) hans]
    exact hexec
  cases a1 with
  | err e => exact ⟨1, _, _, by omega, haccept, herr1 e, completed_done rfl⟩
  | ok h bs =>
    by_cases hbs : bs.length = 1
    · obtain ⟨b, rfl⟩ := List.length_eq_one_iff.mp hbs
      cases hbad : firstBadTimeField t d.century0 with
      | some f => exact ⟨1, _, _, by omega, haccept, hrange h b f hbad, completed_done rfl⟩
      | none =>
        obtain ⟨herr2, -⟩ := hgood2 hbad
        obtain ⟨-, herr3, hok3⟩ := hgood3 hbad
        cases a2 with
        | err e => exact ⟨2, _, _, by omega, haccept, herr2 h b e, completed_done rfl⟩
        | ok h3 x3 =>
          cases a3 with
          | err e => exact ⟨3, _, _, le_rfl, haccept, herr3 h b h3 x3 e, completed_done rfl⟩
          | ok h5 x5 => exact ⟨3, _, _, le_rfl, haccept, hok3 h b h3 x3 h5 x5, completed_done rfl⟩
    · exact ⟨1, _, _, by omega, haccept, hlength h bs hbs, completed_done rfl⟩

theorem terminate_completes : CompletesWithin 0 .terminate s := by
  obtain ⟨-, -, hopened⟩ := terminateReleasesAndCloses
  exact completesWithin_of_exec (hopened s d hm hd) ⟨rfl, rfl, .ok .unit, responses_done s s.answers _⟩

theorem setAlarm_completes {a : AlarmSpec} (hlen : 1 ≤ s.answers.length) : CompletesWithin 1 (.setAlarm a) s := by
  cases hbad : firstBadAlarmField a with
  | some f => exact completesWithin_of_exec (exec_setAlarm_of_bad hm hd hbad) (completed_done rfl)
  | none => exact completesWithin_of_writesThrough (setAlarm_writesThrough hbad) hm hd hlen

/-- Every request that is legal in Open only. -/
theorem completesWithin_of_opened {i : Instr} (hcodec : i.isCodec = false) (hopen : i.opcode ≠ .openBus)
    (hlen : mostAnswers i ≤ s.answers.length) : CompletesWithin (mostAnswers i) i s := by
  cases i with
  | openBus cfg => exact absurd rfl hopen
  | getTime => exact getTime_completes hm hd hlen
  | setTime t => exact setTime_completes hm hd hlen
  | terminate => exact terminate_completes hm hd
  | getStatus => exact AuxRead.status.completes hm hd hlen
  | setStatus f => exact completesWithin_of_writesThrough (setStatus_writesThrough f) hm hd hlen
  | getControl => exact AuxRead.control.completes hm hd hlen
  | setControl f => exact completesWithin_of_writesThrough (setControl_writesThrough f) hm hd hlen
  | getAlarm1 => exact AuxRead.alarm1.completes hm hd hlen
  | getAlarm2 => exact AuxRead.alarm2.completes hm hd hlen
  | setAlarm a => exact setAlarm_completes hm hd hlen
  | getTemperature => exact AuxRead.temperature.completes hm hd hlen
  | _ => cases hcodec

end Opened

/-- R351, with the session that Open has. -/
theorem completesWithin_of_legalIn {i : Instr} {s : State} (hs : s.SessionOk) (hidle : s.phase = .idle)
    (hlegal : i.legalIn s.mode = true) (hlen : mostAnswers i ≤ s.answers.length) :
    CompletesWithin (mostAnswers i) i s := by
  cases hcodec : i.isCodec with
  | true =>
    obtain ⟨r, hexec⟩ := exec_eq_respond_of_isCodec hcodec
    refine completesWithin_of_exec (hexec s) ⟨hidle, rfl, r, ?_⟩
    simp [State.responses]
  | false =>
    by_cases hopen : i.opcode = .openBus
    · cases i with
      | openBus cfg => exact openBus_completes (by simpa [Instr.legalIn, hcodec, hopen] using hlegal) hlen
      | _ => cases hopen
    · have hm : s.mode = .opened := by simpa [Instr.legalIn, hcodec, hopen] using hlegal
      obtain ⟨d, hd⟩ := Option.isSome_iff_exists.mp (hs.mp hm)
      exact completesWithin_of_opened hm hd hcodec hopen hlen

/-- Settles O24: the accepting step is `exec`, and the steps after it are counted above. -/
theorem everyRequestCompletes : Obligations.EveryRequestCompletes := by
  intro s r rest i hinv hidle hreq hdec hlegal hlen
  obtain ⟨k, u, t, hk, hexec, hrun, hphase, hrequests, x, hresponses⟩ :=
    completesWithin_of_legalIn (s := { s with requests := rest }) hinv.session hidle hlegal hlen
  have hstep : step s = .next u := (step_of_idle hidle hreq hdec).trans hexec
  exact ⟨k, t, x, hk, Nat.add_comm 1 k ▸ (run_succ_of_step hstep k).trans hrun, hphase, hrequests, hresponses⟩

end Sys2Proof.Machine
end

section
/-! PROOFS. The log (spec/45_orchestrator.md R312): which events a step puts out, and whose error they hold. -/

namespace Sys2Proof.Machine

open Claims

theorem AuxWrite.Latches.opcode_eq {r : AuxWrite} {i : Instr} (h : r.Latches i) : i.opcode = r.opcode := by
  cases r with
  | status => obtain ⟨f, rfl⟩ := h; rfl
  | control => obtain ⟨f, rfl⟩ := h; rfl
  | alarm1 => obtain ⟨sec, min, hour, day, mode, rfl⟩ := h; rfl
  | alarm2 => obtain ⟨min, hour, day, mode, rfl⟩ := h; rfl

/-- The latched request of a waiting block is one of its phase's operation (R33, R34). -/
theorem State.PhaseOk.req_opcode {s : State} {op : Opcode} (h : s.PhaseOk) (hop : s.phase.opcode = some op) :
    ∃ i, s.req = some i ∧ i.opcode = op := by
  unfold State.PhaseOk at h
  generalize s.phase = p at h hop
  cases p with
  | idle => cases hop
  | waitOpen => obtain ⟨-, ⟨cfg, hreq⟩, -⟩ := h; exact ⟨_, hreq, Option.some.inj hop⟩
  | waitTimeRead => obtain ⟨-, hreq, -⟩ := h; exact ⟨_, hreq, Option.some.inj hop⟩
  | stWaitStatusRead => obtain ⟨-, ⟨t, hreq⟩, -⟩ := h; exact ⟨_, hreq, Option.some.inj hop⟩
  | stWaitDateWrite => obtain ⟨-, -, t, b, img, d, hreq, -⟩ := h; exact ⟨_, hreq, Option.some.inj hop⟩
  | stWaitStatusWrite => obtain ⟨-, t, b, img, d, hreq, -⟩ := h; exact ⟨_, hreq, Option.some.inj hop⟩
  | auxWaitRead r => obtain ⟨-, hreq, -⟩ := h; exact ⟨_, hreq, r.opcode_request.trans (Option.some.inj hop)⟩
  | auxWaitWrite r =>
    obtain ⟨-, ⟨i, hreq, hlatches⟩, -⟩ := h
    exact ⟨i, hreq, hlatches.opcode_eq.trans (Option.some.inj hop)⟩

theorem respond_err_mem_failing {op : Opcode} {e e' : Error} (h : .respond (.err e') ∈ failing op e) : e' = e := by
  simpa [failing] using h

theorem log_mem_failing {op : Opcode} {e : Error} {l : LogEvent} (h : .log l ∈ failing op e) : l = ⟨op, e⟩ := by
  simpa [failing] using h

/-- Settles O21: of the moves of a step only a failure, a failed GET_TIME and a codec request's response put out a log
event or an error. -/
theorem errorsAreLoggedOnceBeforeTheResponse : Obligations.ErrorsAreLoggedOnceBeforeTheResponse := by
  intro s t hinv hstep
  cases step_moves hstep with
  | waits => exact ⟨[], by simp⟩
  | accepts r rest i _ hidle hreq hdec haccepts =>
    cases haccepts with
    | responds x hcodec =>
      refine ⟨[.respond x], rfl, fun e he => .inr (.inr ⟨hidle, ?_, r, i, hreq, hdec, hcodec⟩), by simp⟩
      simpa [eq_comm] using he
    | starts p x => exact ⟨[.issue x], by simp⟩
    | alarmRange a x d hi =>
      subst hi
      refine ⟨failing .setAlarm x, by simp [failing], fun e he => ?_, fun l hl => ?_⟩
      · obtain rfl : e = x := respond_err_mem_failing he
        exact .inr (.inl ⟨hidle, r, a, hreq, hdec, rfl⟩)
      · obtain rfl : l = ⟨.setAlarm, x⟩ := log_mem_failing hl
        exact .inl rfl
    | terminates d => exact ⟨[.issue (.busRelease d.busHandle), .respond (.ok .unit)], by simp⟩
  | answers a rest _ hbusy hans hanswers =>
    cases hanswers with
    | opened cfg h bs => exact ⟨[.respond (.ok .unit)], by simp⟩
    | unset e htime =>
      cases hlog : Config.logGetTimeFailure with
      | false => exact ⟨[.respond .unset], by simp [hlog]⟩
      | true =>
        refine ⟨[.log ⟨.getTime, e⟩, .respond .unset], by simp [hlog], by simp, fun l hl => ?_⟩
        obtain rfl : l = ⟨.getTime, e⟩ := by simpa using hl
        exact .inr ⟨rfl, htime, rfl⟩
    | failed op e hop =>
      obtain ⟨i, hi, rfl⟩ := hinv.phase.req_opcode hop
      refine ⟨failing i.opcode e, by simp [failing], fun e' he => ?_, fun l hl => ?_⟩
      · obtain rfl : e' = e := respond_err_mem_failing he
        exact .inl ⟨hbusy, i, hi, rfl⟩
      · obtain rfl : l = ⟨i.opcode, e⟩ := log_mem_failing hl
        exact .inl rfl
    | completed v => exact ⟨[.respond (.ok v)], by simp⟩
    | writesDate x d b h img => exact ⟨[.issue (d.write .time img.toList)], by simp⟩
    | writesStatus d b => exact ⟨[.issue (d.write .status [b &&& 0x0F])], by simp⟩

end Sys2Proof.Machine
end

section
/-! PROOFS. SET_TIME on the reference chip (spec/20_memory.md R97, spec/45_orchestrator.md R295). -/

namespace Sys2Proof.Machine

open Claims

/-! ### One step of the rig -/

theorem Rig.run_succ_of_step {g g' : Rig} (h : g.step = .next g') (k : Nat) : Rig.run (k + 1) g = Rig.run k g' := by
  simp only [Rig.run, h]

/-- With no transaction in flight the chip does nothing. -/
theorem Rig.step_of_idle {s t : State} {m : Memory} {h0 : BusHandle} {script : List (Option TransportErr)}
    (hidle : s.phase = .idle) (hstep : Machine.step s = .next t) :
    Rig.step ⟨s, m, h0, script⟩ = .next ⟨t, m, h0, script⟩ := by
  simp only [Rig.step, State.awaited, hidle, hstep]

/-- A transaction the script lets pass is served and answered. -/
theorem Rig.step_of_served {s t : State} {m : Memory} {h0 : BusHandle} {script : List (Option TransportErr)} {x : Txn}
    (hx : s.awaited = some x) (hstep : Machine.step (given s [m.answerTo h0 x]) = .next t) :
    Rig.step ⟨s, m, h0, none :: script⟩ = .next ⟨t, m.serve x, h0, script⟩ := by
  rw [given] at hstep
  simp only [Rig.step, hx, Rig.answerTxn, hstep]

/-- A transaction the script fails leaves the registers as they are. -/
theorem Rig.step_of_failed {s t : State} {m : Memory} {h0 : BusHandle} {script : List (Option TransportErr)} {x : Txn}
    {e : TransportErr} (hx : s.awaited = some x) (hstep : Machine.step (given s [.err e]) = .next t) :
    Rig.step ⟨s, m, h0, some e :: script⟩ = .next ⟨t, m, h0, script⟩ := by
  rw [given] at hstep
  simp only [Rig.step, hx, Rig.answerTxn, hstep]

/-! ### SET_TIME -/

theorem awaited_given (s : State) (as : List Draw) : (given s as).awaited = s.awaited := rfl

theorem awaited_readingStatus {s : State} {d : DriverSession} (hd : s.session = some d) (t : CalendarTime) :
    (readingStatus s d t).awaited = some (d.read .status) := congrArg (Option.map _) hd

theorem awaited_writingDate {s : State} {d : DriverSession} (hd : s.session = some d) (b : Byte) (img : Vector Byte 7) :
    (writingDate s d b img).awaited = some (d.write .time img.toList) := by
  simp only [State.awaited, writingDate, State.issue_phase, State.issue_session, State.issue_img, hd, Option.bind_some,
    Option.map_some]

theorem awaited_writingStatus {s : State} {d : DriverSession} (hd : s.session = some d) (b : Byte) :
    (writingStatus s d b).awaited = some (d.write .status [b &&& 0x0F]) := by
  simp only [State.awaited, writingStatus, State.issue_phase, State.issue_session, State.issue_stWb, hd,
    Option.bind_some, Option.map_some]

theorem Memory.answerTo_statusRead (m : Memory) (h0 : BusHandle) (d : DriverSession) :
    m.answerTo h0 (d.read .status) = .ok h0 [m.readByte 0x0F] := rfl

/-- From the status read on, with the write-back failing: the date write is all the chip has served. -/
theorem Rig.run_readingStatus_of_writeBack_failing {s : State} {d : DriverSession} {t : CalendarTime}
    {img : Vector Byte 7} (hd : s.session = some d) (henc : timeEnc t d.century0 = .ok img) (m : Memory)
    (h0 : BusHandle) (e : TransportErr) :
    Rig.run 3 ⟨readingStatus s d t, m, h0, [none, none, some e]⟩ =
      .next ⟨done s [] ([.issue (d.read .status), .issue (d.write .time img.toList),
          .issue (d.write .status [m.readByte 0x0F &&& 0x0F])] ++ failing .setTime (.transport e)),
        m.serve (d.write .time img.toList), h0, []⟩ := by
  have hread := step_readingStatus_of_ok hd henc h0 (m.readByte 0x0F) []
  have hdate := step_writingDate (s := readingStatus s d t) (b := m.readByte 0x0F) (img := img) hd h0 [] []
  have hawait1 := awaited_readingStatus hd t
  have hawait2 := awaited_writingDate (s := readingStatus s d t) hd (m.readByte 0x0F) img
  have hawait3 := awaited_writingStatus (s := writingDate (readingStatus s d t) d (m.readByte 0x0F) img) hd
    (m.readByte 0x0F)
  have hstatus := step_writingStatus_err (s := s) (d := d) (t := t) (b := m.readByte 0x0F) (img := img) e []
  rw [← Memory.answerTo_statusRead m h0 d] at hread
  rw [← given_given _ []] at hdate hstatus
  rw [← awaited_given _ []] at hawait2 hawait3
  rw [Rig.run_succ_of_step (Rig.step_of_served hawait1 hread),
    Rig.run_succ_of_step (Rig.step_of_served hawait2 hdate),
    Rig.run_succ_of_step (Rig.step_of_failed hawait3 hstatus)]
  rfl

/-- The date write covers the offsets below 7 and no other. -/
theorem serve_timeWrite {m : Memory} (d : DriverSession) (img : Vector Byte 7) (hwf : m.wf = true) :
    (m.serve (d.write .time img.toList)).readBytes 0x00 7 = img.toList ∧
      ∀ a, 7 ≤ a → (m.serve (d.write .time img.toList)).readByte a = m.readByte a := by
  have hlen : img.toList.length = 7 := img.length_toList
  have hfits : 0 + img.toList.length ≤ Memory.size := by rw [hlen]; decide
  refine ⟨?_, fun a ha => Memory.readByte_writeBytes_outside (off := 0) hwf hfits (by omega)⟩
  have hread := Memory.readBytes_writeBytes (off := 0) hwf hfits
  rwa [hlen] at hread

/-- Settles O58: the first step accepts the request, and the other three are the run above. -/
theorem writeBackFailureLeavesDateWritten : Obligations.WriteBackFailureLeavesDateWritten := by
  rintro ⟨block, regs, h0, script⟩ d t img r rest e hidle hm hd hreq hdec henc hwf rfl
  have haccept : Machine.step block = .next (readingStatus { block with requests := rest } d t) :=
    (step_of_idle hidle hreq hdec).trans (exec_setTime (s := { block with requests := rest }) hm hd t)
  obtain ⟨hdate, hother⟩ := serve_timeWrite d img hwf
  refine ⟨_, (Rig.run_succ_of_step (Rig.step_of_idle hidle haccept) 3).trans
    (Rig.run_readingStatus_of_writeBack_failing (s := { block with requests := rest }) hd henc regs h0 e),
    rfl, responses_done .., hdate, hother⟩

end Sys2Proof.Machine
end

section
/-! PROOFS. Requests in the wrong mode, and failed transactions (spec/60_exceptions.md R351, R348). -/

namespace Sys2Proof

theorem Instr.eq_openBus_of_opcode {i : Instr} (h : i.opcode = .openBus) : ∃ cfg, i = .openBus cfg := by
  cases i with
  | openBus cfg => exact ⟨cfg, rfl⟩
  | _ => cases h

namespace Machine

open Claims

/-! ### Requests in the wrong mode -/

/-- Settles O8: a request that is legal in one mode only is refused in the other, and a codec request responds. -/
theorem wrongModeRequestsAreRefused : Obligations.WrongModeRequestsAreRefused := by
  refine fun i s => ⟨fun hcodec hopen hm => ?_, fun hopen hm => ?_, fun hcodec x => ?_⟩
  · rw [legalOnlyIn_opened hcodec hopen s (by rw [hm]; decide), hm]
  · obtain ⟨cfg, rfl⟩ := Instr.eq_openBus_of_opcode hopen
    obtain ⟨hrequest, -⟩ := openAcquiresTheBusOrStaysClosed
    obtain ⟨-, hclosedOnly⟩ := hrequest cfg
    rw [hclosedOnly s (by rw [hm]; decide), hm, hopen]
  · obtain ⟨r, hexec⟩ := exec_eq_respond_of_isCodec hcodec
    rw [hexec]
    nofun

/-! ### Failed transactions -/

theorem Phase.exists_opcode_of_ne_idle {p : Phase} (hp : p ≠ .idle) : ∃ op, p.opcode = some op := by
  cases p with
  | idle => exact absurd rfl hp
  | _ => exact ⟨_, rfl⟩

theorem answerOpen_err {s : State} {cfg : OpenConfig} (hreq : s.req = some (.openBus cfg)) (e : TransportErr) :
    answerOpen (.err e) s = .next (s.fail .openBus (.transport e)) := by
  simp only [answerOpen, hreq]

/-- OPEN reads its latched request before the answer, so its failure rests on what the phase says of the registers. -/
theorem State.PhaseOk.answerStep_err {s : State} {op : Opcode} (h : s.PhaseOk) (hop : s.phase.opcode = some op)
    (htime : s.phase ≠ .waitTimeRead) (e : TransportErr) :
    s.phase.answerStep (.err e) s = .next (s.fail op (.transport e)) := by
  by_cases hopen : s.phase = .waitOpen
  · obtain ⟨i, hreq, hi⟩ := h.req_opcode hop
    rw [hopen] at hop ⊢
    cases hop
    obtain ⟨cfg, rfl⟩ := Instr.eq_openBus_of_opcode hi
    exact answerOpen_err hreq e
  · exact Phase.answerStep_err hop hopen htime e s

theorem issuedIn_failing (op : Opcode) (e : Error) : issuedIn (failing op e) = [] := rfl

theorem responsesIn_failing (op : Opcode) (e : Error) : responsesIn (failing op e) = [.err e] := rfl

theorem issuedIn_maybeLog (e : Error) : issuedIn (maybeLog e) = [] := by
  unfold maybeLog
  split <;> rfl

/-- Settles O22: GET_TIME's failure is `Unset`, and every other phase's is the failure of its request. -/
theorem failedTransactionEndsTheRequest : Obligations.FailedTransactionEndsTheRequest := by
  intro s e rest hinv hbusy hans
  have hstep : step s = s.phase.answerStep (.err e) (given s rest) := by
    rw [← step_given rfl hbusy, given_of_answers_eq hans]
  by_cases htime : s.phase = .waitTimeRead
  · refine ⟨maybeLog (.transport e) ++ [.respond .unset], ?_, ?_, ?_⟩
    · rw [hstep, htime]
      exact answerTimeRead_err e (given s rest)
    · rw [issuedIn_append, issuedIn_maybeLog]
      rfl
    · rw [responsesIn_append, responsesIn_maybeLog, if_pos htime]
      rfl
  · obtain ⟨op, hop⟩ := Phase.exists_opcode_of_ne_idle hbusy
    have hphase : (given s rest).PhaseOk := hinv.phase
    refine ⟨failing op (.transport e), ?_, issuedIn_failing .., ?_⟩
    · rw [hstep]
      exact (hphase.answerStep_err hop htime e).trans (congrArg _ (State.fail_eq_done ..))
    · rw [responsesIn_failing, if_neg htime]

end Machine

end Sys2Proof
end

section
/-! PROOFS. The reset state (spec/70_reset_and_hazards.md R370), which is the table of R60. -/

namespace Sys2Proof.Machine

theorem State.scratchEmpty_reset : State.reset.ScratchEmpty := ⟨rfl, rfl, rfl, rfl⟩

/-- Nothing was put out yet, so no response either. -/
theorem State.responses_reset : State.reset.responses = [] := responsesIn_nil

/-- Settles O1: mode, phase and session are fields of the reset state's definition, and nothing else holds a value. -/
theorem resetIsClosedIdleWithoutValues : Obligations.ResetIsClosedIdleWithoutValues :=
  ⟨rfl, rfl, rfl, State.scratchEmpty_reset, State.responses_reset⟩

end Sys2Proof.Machine
end

section
/-! PROOFS. The request encoding (spec/30_encoding.md): the three results of `decode`, each with the requests that give
it, and the opcode bytes in no row of the map. -/

namespace Sys2Proof

/-! ### The three results of decoding (R116, R118) -/

theorem decode_eq_instr_iff {r : Request} {i : Instr} :
    decode r = .instr i ↔ ∃ o, opcodeOf r.op = some o ∧ buildInstr o r.operand = some i := by
  cases hop : opcodeOf r.op with
  | none => simp [decode, hop]
  | some o => cases hbuild : buildInstr o r.operand <;> simp [decode, hop, hbuild]

theorem decode_eq_unassigned_iff {r : Request} {op : Byte} :
    decode r = .unassigned op ↔ op = r.op ∧ r.opcodeAssigned = false := by
  rw [opcodeAssigned_eq r.op r.operand]
  cases hop : opcodeOf r.op with
  | none => simp [decode, hop, eq_comm]
  | some o => cases hbuild : buildInstr o r.operand <;> simp [decode, hop, hbuild]

theorem buildInstr_eq_none_iff {o : Opcode} {x : Operand} : buildInstr o x = none ↔ x.fits o = false := by
  rw [← buildInstr_isSome, Option.isSome_eq_false_iff, Option.isNone_iff_eq_none]

theorem decode_eq_operandType_iff {r : Request} {o : Opcode} :
    decode r = .operandType o ↔ opcodeOf r.op = some o ∧ r.operand.fits o = false := by
  rw [← buildInstr_eq_none_iff]
  cases hop : opcodeOf r.op with
  | none => simp [decode, hop]
  | some o' =>
    by_cases ho : o' = o
    · subst ho
      cases hbuild : buildInstr o' r.operand <;> simp [decode, hop, hbuild]
    · cases hbuild : buildInstr o' r.operand <;> simp [decode, hop, hbuild, ho]

/-! ### The bytes in no row -/

/-- The opcode bytes of the map, as numbers. -/
def assignedBytes : Finset Nat := (opcodeMap.map fun row => row.op.toNat).toFinset

theorem opcodeOf_ofNat_isNone {n : Nat} (hn : n < 256) :
    (opcodeOf (BitVec.ofNat 8 n)).isNone = decide (n ∉ assignedBytes) := by
  have hbyte : ∀ row : OpcodeRow, row.op = BitVec.ofNat 8 n ↔ row.op.toNat = n := fun row => by
    rw [← BitVec.toNat_inj, BitVec.toNat_ofNat, Nat.mod_eq_of_lt hn]
  rw [Bool.eq_iff_iff, decide_eq_true_iff]
  simp [opcodeOf, assignedBytes, hbyte]

/-- The map has 23 rows, each with a byte of its own. -/
theorem length_filter_opcodeOf_isNone :
    ((List.range 256).filter fun n => (opcodeOf (BitVec.ofNat 8 n)).isNone).length = 233 := by
  rw [List.filter_congr fun n hn => opcodeOf_ofNat_isNone (List.mem_range.mp hn)]
  have hcard : ((Finset.range 256).filter fun n => n ∉ assignedBytes).card = 233 := by
    rw [Finset.filter_notMem_eq_sdiff, Finset.card_sdiff_of_subset (by decide), Finset.card_range]
    rfl
  exact hcard

/-! ### The obligations -/

/-- Settles O9: each operation's byte is in its own row, and its operand builds it again. -/
theorem decodeOfEncodeIsTheInstruction : Obligations.DecodeOfEncodeIsTheInstruction := Instr.decode_encode

/-- Settles O10: the row of the byte names the instruction's operation, and the operand is the instruction's own. -/
theorem decodedRequestsAreEncodings : Obligations.DecodedRequestsAreEncodings := by
  intro r i hdec
  obtain ⟨o, hop, hbuild⟩ := decode_eq_instr_iff.mp hdec
  obtain ⟨rfl, hoperand⟩ := buildInstr_some hbuild
  rw [encode, byte_of_opcodeOf hop, hoperand]

/-- Settles O11: a byte in no row is one the field check refuses. -/
theorem otherOpcodesAreUnassigned : Obligations.OtherOpcodesAreUnassigned :=
  ⟨fun _ _ => decode_eq_unassigned_iff, length_filter_opcodeOf_isNone⟩

/-- Settles O12: each byte is the opcode byte of its operation, and the operand is of the operation's format. -/
theorem opcodeMapWords : Obligations.OpcodeMapWords :=
  ⟨fun _ => decode_eq_instr_iff.mpr ⟨.bcdEnc, rfl, rfl⟩, fun _ _ => decode_eq_instr_iff.mpr ⟨.timeDec, rfl, rfl⟩,
    fun _ => decode_eq_instr_iff.mpr ⟨.controlDec, rfl, rfl⟩, fun _ => decode_eq_instr_iff.mpr ⟨.alarmEnc, rfl, rfl⟩,
    fun _ => decode_eq_instr_iff.mpr ⟨.tempDec, rfl, rfl⟩, fun _ => decode_eq_instr_iff.mpr ⟨.setTime, rfl, rfl⟩,
    decode_eq_instr_iff.mpr ⟨.getTemperature, rfl, rfl⟩⟩

/-- Settles O13: the defaults of R10 are the three values, and the reader takes the word alone. -/
theorem openDefaultSpellsTheDefaults : Obligations.OpenDefaultSpellsTheDefaults :=
  ⟨rfl, by decide, by decide⟩

end Sys2Proof
end

section
/-! PROOFS. The invariant of the block (Safety.lean): it holds at reset, a reset in mid-run restores it, and every step
keeps it. A step ends idle with empty scratch registers, or waiting for the transaction it has just issued. -/

namespace Sys2Proof.Machine

open Claims

/-! ### The transactions of the register map (R82) -/

theorem DriverSession.legal_read (d : DriverSession) (r : ChipReg) : (d.read r).Legal := ⟨r, rfl, rfl⟩

theorem DriverSession.legal_write (d : DriverSession) {r : ChipReg} {data : List Byte} (hr : r ≠ .temperature)
    (hlen : data.length = r.length) : (d.write r data).Legal := ⟨r, hr, rfl, hlen⟩

theorem length_of_alarmEnc {a : AlarmSpec} {img : List Byte} (h : alarmEnc a = .ok img) :
    img.length = (alarmTarget a).chipReg.length := by
  obtain ⟨-, rfl⟩ := alarmEnc_eq_ok_iff.mp h
  cases a <;> rfl

theorem AuxWrite.chipReg_ne_temperature (r : AuxWrite) : r.chipReg ≠ .temperature := by
  cases r <;> decide

theorem latches_alarmTarget (a : AlarmSpec) : (alarmTarget a).Latches (.setAlarm a) := by
  cases a with
  | alarm1 sec min hour day mode => exact ⟨sec, min, hour, day, mode, rfl⟩
  | alarm2 min hour day mode => exact ⟨min, hour, day, mode, rfl⟩

/-! ### The two ways a step ends -/

theorem State.Inv.scratchEmpty {s : State} (h : s.Inv) (hidle : s.phase = .idle) : s.ScratchEmpty := by
  have hphase := h.phase
  unfold State.PhaseOk at hphase
  rwa [hidle] at hphase

theorem State.IssuedOk.append {s t : State} {es : List Event} (h : s.IssuedOk) (hes : ∀ x ∈ issuedIn es, x.Legal)
    (ht : t.events = s.events ++ es) : t.IssuedOk := by
  intro x hx
  rw [State.issued, ht, issuedIn_append, List.mem_append] at hx
  exact hx.elim (h x) (hes x)

theorem State.inv_of_idle {s : State} (hsession : s.SessionOk) (hissued : s.IssuedOk) (hidle : s.phase = .idle)
    (hempty : s.ScratchEmpty) : s.Inv where
  session := hsession
  phase := by unfold State.PhaseOk; rwa [hidle]
  inFlight := fun hbusy => absurd hidle hbusy
  issued := hissued

theorem State.inv_done {s : State} {es : List Event} (hsession : s.SessionOk) (hissued : s.IssuedOk)
    (hes : issuedIn es = []) (as : List Draw) : (done s as es).Inv :=
  State.inv_of_idle hsession (hissued.append (by simp [hes]) rfl) rfl ⟨rfl, rfl, rfl, rfl⟩

theorem State.inv_issue {s : State} {p : Phase} {x : Txn} (hsession : s.SessionOk) (hissued : s.IssuedOk)
    (hphase : (s.issue p x).PhaseOk) (hawaited : (s.issue p x).awaited = some x) (hlegal : x.Legal) :
    (s.issue p x).Inv where
  session := hsession
  phase := hphase
  inFlight := fun _ => ⟨x, hawaited, by simp [State.issued]⟩
  issued := hissued.append (by simpa using hlegal) (State.issue_events ..)

/-! ### Acceptance -/

/-- What a started request leaves in the scratch registers is what its phase says. -/
theorem Starts.phaseOk {s : State} {i : Instr} {p : Phase} {x : Txn} (h : Starts s i p x) (hempty : s.ScratchEmpty) :
    (s.start i p x).PhaseOk := by
  obtain ⟨-, hraw, himg, hwb⟩ := hempty
  cases h with
  | opens cfg hm => exact ⟨hm, ⟨cfg, rfl⟩, hraw, himg, hwb⟩
  | getsTime d hm => exact ⟨hm, rfl, hraw, himg, hwb⟩
  | setsTime t d hm => exact ⟨hm, ⟨t, rfl⟩, hraw, himg, hwb⟩
  | reads r d hm => exact ⟨hm, rfl, hraw, himg, hwb⟩
  | setsStatus f d hm => exact ⟨hm, ⟨_, rfl, f, rfl⟩, hraw, himg, hwb⟩
  | setsControl f d hm => exact ⟨hm, ⟨_, rfl, f, rfl⟩, hraw, himg, hwb⟩
  | setsAlarm a img d hm => exact ⟨hm, ⟨_, rfl, latches_alarmTarget a⟩, hraw, himg, hwb⟩

theorem Starts.awaited {s : State} {i : Instr} {p : Phase} {x : Txn} (h : Starts s i p x) :
    (s.start i p x).awaited = some x := by
  cases h with
  | opens cfg hm => rfl
  | getsTime d hm hd => simp [State.awaited, hd]
  | setsTime t d hm hd => simp [State.awaited, hd]
  | reads r d hm hd => simp [State.awaited, hd]
  | setsStatus f d hm hd => simp [State.awaited, hd, AuxWrite.chipReg]
  | setsControl f d hm hd => simp [State.awaited, hd, AuxWrite.chipReg]
  | setsAlarm a img d hm hd he => simp [State.awaited, hd, he, Except.toOption]

theorem Starts.legal {s : State} {i : Instr} {p : Phase} {x : Txn} (h : Starts s i p x) : x.Legal := by
  cases h with
  | opens cfg => trivial
  | getsTime d => exact d.legal_read .time
  | setsTime t d => exact d.legal_read .status
  | reads r d => exact d.legal_read r.chipReg
  | setsStatus f d => exact d.legal_write nofun rfl
  | setsControl f d => exact d.legal_write nofun rfl
  | setsAlarm a img d hm hd he => exact d.legal_write (AuxWrite.chipReg_ne_temperature _) (length_of_alarmEnc he)

/-- Accepting a request keeps the invariant. -/
theorem Accepts.inv {s t : State} {i : Instr} (h : Accepts s i t) (hinv : s.Inv) (hidle : s.phase = .idle) : t.Inv := by
  have hempty := hinv.scratchEmpty hidle
  cases h with
  | responds x => exact State.inv_of_idle hinv.session (hinv.issued.append (es := [.respond x]) nofun rfl) hidle hempty
  | starts p x hstarts =>
    exact State.inv_issue (s := { s with req := some i }) hinv.session hinv.issued (hstarts.phaseOk hempty)
      hstarts.awaited hstarts.legal
  | alarmRange a x =>
    rw [State.fail_eq_done]
    exact State.inv_done hinv.session hinv.issued (issuedIn_failing ..) _
  | terminates d =>
    refine State.inv_done (s := (s.emit (.issue (.busRelease d.busHandle))).closeSession) (es := [.respond (.ok .unit)])
      (by simp [State.SessionOk]) ?_ rfl _
    exact hinv.issued.append (es := [.issue (.busRelease d.busHandle)]) (by simp [Txn.Legal]) rfl

/-! ### An answer -/

/-- Taking an answer keeps the invariant: it completes the request, or goes on to SET_TIME's next write. -/
theorem Answers.inv {s t : State} {a : Draw} (h : Answers s a t) (hinv : s.Inv) : t.Inv := by
  have hphase := hinv.phase
  cases h with
  | opened cfg h bs =>
    exact State.inv_done (s := s.openSession h cfg) (es := [.respond (.ok .unit)]) (by simp [State.SessionOk])
      hinv.issued rfl _
  | unset e =>
    rw [State.failUnset_eq_done]
    exact State.inv_done hinv.session hinv.issued (by simp [issuedIn_maybeLog]) _
  | failed op e =>
    rw [State.fail_eq_done]
    exact State.inv_done hinv.session hinv.issued (issuedIn_failing ..) _
  | completed v =>
    rw [State.complete_eq_done]
    exact State.inv_done hinv.session hinv.issued rfl _
  | writesDate x d b h img hp hq hd ha he =>
    simp only [State.PhaseOk, hp] at hphase
    obtain ⟨hm, -, -, -, hwb⟩ := hphase
    exact State.inv_issue (s := { s with stRaw := some b, img := some img }) hinv.session hinv.issued
      ⟨hm, hwb, x, b, img, d, hq, rfl, rfl, hd, he⟩ (by simp [State.awaited, hd])
      (d.legal_write nofun img.length_toList)
  | writesStatus d b h bs hp hb hd =>
    simp only [State.PhaseOk, hp] at hphase
    obtain ⟨hm, -, x, b', img, d', hq, hb', himg, hd', he⟩ := hphase
    obtain rfl : b' = b := Option.some.inj (hb'.symm.trans hb)
    exact State.inv_issue (s := { s with stWb := some (b' &&& 0x0F) }) hinv.session hinv.issued
      ⟨hm, x, b', img, d', hq, hb, himg, hd', he, rfl⟩ (by simp [State.awaited, hd]) (d.legal_write nofun rfl)

/-! ### The obligations -/

/-- The ports' inputs have no part in the invariant. -/
theorem State.Inv.with_inputs {s : State} (h : s.Inv) (requests : List Request) (answers : List Draw) :
    { s with requests := requests, answers := answers }.Inv := ⟨h.session, h.phase, h.inFlight, h.issued⟩

/-- Settles O3: a step waits, accepts the head request or takes the next answer, and each keeps the invariant. -/
theorem stepKeepsInvariant : Obligations.StepKeepsInvariant := by
  intro s t hinv hstep
  cases step_moves hstep with
  | waits => exact hinv
  | accepts r rest i _ hidle _ _ haccepts => exact haccepts.inv (hinv.with_inputs rest s.answers) hidle
  | answers a rest _ _ _ hanswers => exact hanswers.inv (hinv.with_inputs s.requests rest)

/-- Settles O2: the reset state is idle and holds no value, and nothing was issued yet. -/
theorem resetMeetsInvariant : Obligations.ResetMeetsInvariant :=
  State.inv_of_idle (by simp [State.SessionOk, State.reset]) nofun rfl State.scratchEmpty_reset

/-- Settles O5: the registers are those of the reset state, and the outputs stay as they were. -/
theorem resetInMidRunIssuesNothing : Obligations.ResetInMidRunIssuesNothing := fun _ hinv =>
  ⟨State.inv_of_idle resetMeetsInvariant.session hinv.issued rfl State.scratchEmpty_reset, rfl, rfl, rfl, rfl⟩

end Sys2Proof.Machine
end

section
/-! PROOFS. Runs (spec/60_exceptions.md R350): the first step of a run decides how the run goes on. -/

namespace Sys2Proof.Machine

theorem run_succ_of_fault {s : State} {f : Fault} (h : step s = .fault f) (k : Nat) :
    Host.Core.run core (k + 1) s = .fault f := by
  have hcore : core.step s = .fault f := h
  simp only [Host.Core.run, hcore]

theorem run_succ_of_refused {s : State} {x : Refusal} (h : step s = .refused x) (k : Nat) :
    Host.Core.run core (k + 1) s = .refused x := by
  have hcore : core.step s = .refused x := h
  simp only [Host.Core.run, hcore]

theorem run_succ_eq_next_iff {k : Nat} {s t : State} :
    Host.Core.run core (k + 1) s = .next t ↔ ∃ u, step s = .next u ∧ Host.Core.run core k u = .next t := by
  cases hstep : step s with
  | next u => simp [run_succ_of_step hstep]
  | fault f => simp [run_succ_of_fault hstep]
  | refused x => simp [run_succ_of_refused hstep]

end Sys2Proof.Machine
end

section
/-! PROOFS. What one step takes and puts out (spec/10_state.md R31 to R35, spec/45_orchestrator.md R280): each claim is a
case analysis over the moves of a step. -/

namespace Sys2Proof.Machine

open Claims

/-! ### The input ports (R280) -/

/-- Settles O14: an idle step with a request at hand decodes the request and runs it. -/
theorem idleStepRunsTheDecodedRequest : Obligations.IdleStepRunsTheDecodedRequest :=
  fun _ _ _ _ hidle hreq hdec => step_of_idle hidle hreq hdec

theorem Accepts.inputs_eq {s t : State} {i : Instr} (h : Accepts s i t) : s.SameInputs t := by
  cases h <;> exact ⟨rfl, rfl⟩

theorem Answers.inputs_eq {s t : State} {a : Draw} (h : Answers s a t) : s.SameInputs t := by
  cases h <;> exact ⟨rfl, rfl⟩

/-- Settles O15: an accepting step takes the head request and no answer, an answer step an answer and no request. -/
theorem busyPortHoldsRequests : Obligations.BusyPortHoldsRequests := by
  intro s t hstep
  cases step_moves hstep with
  | waits h => exact ⟨fun _ => rfl, fun hidle => ⟨rfl, .inl ⟨rfl, by rwa [if_pos hidle] at h⟩⟩⟩
  | accepts r rest i _ hidle hreq hdec haccepts =>
    obtain ⟨hrequests, hanswers⟩ := haccepts.inputs_eq
    exact ⟨absurd hidle, fun _ => ⟨hanswers, .inr ⟨r, by rw [hreq, hrequests]⟩⟩⟩
  | answers a rest _ hbusy hans hanswers =>
    obtain ⟨hrequests, -⟩ := hanswers.inputs_eq
    exact ⟨fun _ => hrequests, (absurd · hbusy)⟩

/-! ### The phase (R33) -/

theorem phaseNext_idle (p : Phase) : PhaseNext p .idle := by
  cases p with
  | idle => trivial
  | stWaitStatusRead => exact .inr rfl
  | stWaitDateWrite => exact .inr rfl
  | _ => rfl

theorem Starts.phase_ne_idle {s : State} {i : Instr} {p : Phase} {x : Txn} (h : Starts s i p x) : p ≠ .idle := by
  cases h <;> nofun

theorem Starts.phaseNext {s : State} {i : Instr} {p : Phase} {x : Txn} (h : Starts s i p x) : PhaseNext .idle p := by
  cases h <;> trivial

theorem Accepts.phaseNext {s t : State} {i : Instr} (h : Accepts s i t) (hidle : s.phase = .idle) :
    PhaseNext .idle t.phase := by
  cases h with
  | responds x => exact hidle ▸ phaseNext_idle .idle
  | starts p x hstarts => exact hstarts.phaseNext
  | alarmRange a x => exact phaseNext_idle .idle
  | terminates d => exact phaseNext_idle .idle

theorem Answers.phaseNext {s t : State} {a : Draw} (h : Answers s a t) : PhaseNext s.phase t.phase := by
  cases h with
  | writesDate x d b h img hp => rw [hp]; exact .inl rfl
  | writesStatus d b h bs hp => rw [hp]; exact .inl rfl
  | _ => exact phaseNext_idle s.phase

/-- Settles O17: every request ends in `Idle`, and only SET_TIME's answers lead on. -/
theorem phaseMovesFollowTheTable : Obligations.PhaseMovesFollowTheTable := by
  intro s t hstep
  cases step_moves hstep with
  | waits => exact .inl rfl
  | accepts r rest i _ hidle _ _ haccepts => exact .inr (hidle ▸ haccepts.phaseNext hidle)
  | answers a rest _ _ _ hanswers => exact .inr hanswers.phaseNext

/-! ### The session registers and the mode (R31, R32) -/

/-- A step that changes the session registers or the mode is OPEN's successful answer or accepts TERMINATE. -/
theorem session_writes_of_step {s t : State} (hstep : step s = .next t)
    (hwrites : ¬(t.mode = s.mode ∧ t.session = s.session)) :
    (s.phase = .waitOpen ∧ ∃ cfg h bs, s.req = some (.openBus cfg) ∧ s.answers = .ok h bs :: t.answers ∧
        t.mode = .opened ∧ t.session = some ⟨h, cfg.busAddress, cfg.century0, cfg.busName⟩) ∨
      (s.phase = .idle ∧ (∃ r, s.requests = r :: t.requests ∧ decode r = .instr .terminate) ∧ s.mode = .opened ∧
        t.mode = .closed ∧ t.session = none) := by
  cases step_moves hstep with
  | waits => exact absurd ⟨rfl, rfl⟩ hwrites
  | accepts r rest i _ hidle hreq hdec haccepts =>
    cases haccepts with
    | terminates d hi hm => subst hi; exact .inr ⟨hidle, ⟨r, hreq, hdec⟩, hm, rfl, rfl⟩
    | _ => exact absurd ⟨rfl, rfl⟩ hwrites
  | answers a rest _ _ hans hanswers =>
    cases hanswers with
    | opened cfg h bs hp hq ha => subst ha; exact .inl ⟨hp, cfg, h, bs, hq, hans, rfl, rfl⟩
    | _ => exact absurd ⟨rfl, rfl⟩ hwrites

/-- Settles O19: the writers of the session are the two of `session_writes_of_step`. -/
theorem onlyOpenWritesTheSession : Obligations.OnlyOpenWritesTheSession := by
  intro s t hstep hsession
  obtain ⟨hp, cfg, h, bs, hq, hans, -, hopened⟩ | ⟨hidle, hterm, -, -, hclosed⟩ :=
    session_writes_of_step hstep fun hsame => hsession hsame.2
  · exact .inl ⟨hp, cfg, h, bs, hq, hans, hopened⟩
  · exact .inr ⟨hidle, hterm, hclosed⟩

/-- Settles O20: the writers of the mode are the same two, and OPEN's answer changes the mode only from Closed. -/
theorem onlyOpenAndTerminateWriteMode : Obligations.OnlyOpenAndTerminateWriteMode := by
  intro s t hstep hmode
  obtain ⟨hp, cfg, h, bs, -, hans, hopened, -⟩ | ⟨hidle, hterm, hm, hclosed, -⟩ :=
    session_writes_of_step hstep fun hsame => hmode hsame.1
  · exact .inl ⟨hp, Mode.eq_closed_of_ne_opened fun hm => hmode (hopened.trans hm.symm), hopened, h, bs, hans⟩
  · exact .inr ⟨hidle, hm, hclosed, hterm⟩

/-! ### The outputs (R82, R98) -/

/-- Among the events `es` of a step that ends in phase `p` at most one is a transaction, and one is a response exactly
where the block is idle again. -/
structure PutOut (es : List Event) (p : Phase) : Prop where
  issued : (issuedIn es).length ≤ 1
  responses : (responsesIn es).length = if p = .idle then 1 else 0

theorem PutOut.responses_le_one {es : List Event} {p : Phase} (h : PutOut es p) : (responsesIn es).length ≤ 1 := by
  rw [h.responses]
  split <;> decide

theorem PutOut.responded_iff {es : List Event} {p : Phase} (h : PutOut es p) :
    (∃ x, responsesIn es = [x]) ↔ p = .idle := by
  rw [← List.length_eq_one_iff, h.responses]
  split <;> simp_all

theorem putOut_failing (op : Opcode) (e : Error) : PutOut (failing op e) .idle := ⟨Nat.zero_le 1, rfl⟩

theorem putOut_respond (x : Response) : PutOut [.respond x] .idle := ⟨Nat.zero_le 1, rfl⟩

theorem putOut_issue {p : Phase} (hp : p ≠ .idle) (x : Txn) : PutOut [.issue x] p := ⟨le_rfl, (if_neg hp).symm⟩

theorem putOut_unset (e : Error) : PutOut (maybeLog e ++ [.respond .unset]) .idle where
  issued := by simp [issuedIn_maybeLog]
  responses := by simp

theorem Accepts.putOut {s t : State} {i : Instr} (h : Accepts s i t) (hidle : s.phase = .idle) :
    ∃ es, t.events = s.events ++ es ∧ es ≠ [] ∧ PutOut es t.phase := by
  cases h with
  | responds x => exact ⟨[.respond x], rfl, nofun, hidle ▸ putOut_respond x⟩
  | starts p x hstarts => exact ⟨[.issue x], rfl, nofun, putOut_issue hstarts.phase_ne_idle x⟩
  | alarmRange a x => exact ⟨failing .setAlarm x, by simp [failing], nofun, putOut_failing ..⟩
  | terminates d => exact ⟨[.issue (.busRelease d.busHandle), .respond (.ok .unit)], by simp, nofun, le_rfl, rfl⟩

theorem Answers.putOut {s t : State} {a : Draw} (h : Answers s a t) :
    ∃ es, t.events = s.events ++ es ∧ es ≠ [] ∧ PutOut es t.phase := by
  cases h with
  | opened cfg h bs => exact ⟨_, rfl, nofun, putOut_respond _⟩
  | unset e => exact ⟨maybeLog e ++ [.respond .unset], by simp [maybeLog], by simp, putOut_unset e⟩
  | failed op e => exact ⟨failing op e, by simp [failing], nofun, putOut_failing op e⟩
  | completed v => exact ⟨_, rfl, nofun, putOut_respond _⟩
  | writesDate => exact ⟨_, rfl, nofun, putOut_issue (p := .stWaitDateWrite) nofun _⟩
  | writesStatus => exact ⟨_, rfl, nofun, putOut_issue (p := .stWaitStatusWrite) nofun _⟩

/-- Settles O16: an accepting step and an answer step put out something, and a step that does neither changes nothing. -/
theorem oneTransactionAtATime : Obligations.OneTransactionAtATime := by
  intro s t _ hstep
  cases step_moves hstep with
  | waits => exact ⟨[], by simp⟩
  | accepts r rest i _ hidle _ _ haccepts =>
    obtain ⟨es, hevents, hne, hput⟩ := haccepts.putOut hidle
    exact ⟨es, hevents, hput.issued, hput.responses_le_one, fun _ => hput.responded_iff, absurd hidle, (absurd · hne)⟩
  | answers a rest _ _ hans hanswers =>
    obtain ⟨es, hevents, hne, hput⟩ := hanswers.putOut
    obtain ⟨-, hrest⟩ := hanswers.inputs_eq
    exact ⟨es, hevents, hput.issued, hput.responses_le_one, fun _ => hput.responded_iff,
      fun _ _ => ⟨a, by rw [hans, hrest]⟩, (absurd · hne)⟩

/-! ### Requests and responses over a run (R35) -/

theorem State.responses_of_events {s t : State} {es : List Event} (h : t.events = s.events ++ es) :
    t.responses = s.responses ++ responsesIn es := by
  rw [State.responses, h, responsesIn_append]
  rfl

/-- A step that puts something out gives the response of a request at its end, or leaves the request in flight. -/
theorem PutOut.requestsAndResponses_eq {s t : State} {es : List Event} (h : PutOut es t.phase)
    (hevents : t.events = s.events ++ es) :
    requestsAndResponses t = t.requests.length + s.responses.length + 1 := by
  rw [requestsAndResponses, State.responses_of_events hevents, List.length_append, h.responses]
  split <;> omega

theorem requestsAndResponses_of_step {s t : State} (hstep : step s = .next t) :
    requestsAndResponses t = requestsAndResponses s := by
  cases step_moves hstep with
  | waits => rfl
  | accepts r rest i _ hidle hreq _ haccepts =>
    obtain ⟨es, hevents, -, hput⟩ := haccepts.putOut hidle
    have hrest : t.requests = rest := haccepts.inputs_eq.1
    rw [hput.requestsAndResponses_eq (s := s) hevents, hrest, requestsAndResponses, if_pos hidle, hreq, List.length_cons]
    omega
  | answers a rest _ hbusy _ hanswers =>
    obtain ⟨es, hevents, -, hput⟩ := hanswers.putOut
    have hheld : t.requests = s.requests := hanswers.inputs_eq.1
    rw [hput.requestsAndResponses_eq (s := s) hevents, hheld, requestsAndResponses, if_neg hbusy]
    omega

/-- Settles O18, by induction on the number of steps: every step keeps the sum. -/
theorem oneResponsePerAcceptedRequest : Obligations.OneResponsePerAcceptedRequest := by
  intro k
  induction k with
  | zero => rintro s t ⟨⟩; rfl
  | succ k ih =>
    intro s t hrun
    obtain ⟨u, hstep, hrest⟩ := run_succ_eq_next_iff.mp hrun
    exact (ih u t hrest).trans (requestsAndResponses_of_step hstep)

/-! ### The wire (R85 to R87) -/

/-- Settles O57: each transaction is one call of the transport's contract. -/
theorem wireFramingPutsTheOffsetFirst : Obligations.WireFramingPutsTheOffsetFirst :=
  ⟨fun _ _ _ _ => rfl, fun _ _ _ _ => rfl, fun _ => rfl, fun _ => rfl⟩

end Sys2Proof.Machine
end

section
/-! PROOFS. Refusals and faults (spec/60_exceptions.md R350, R351): under the invariant a step is refused at a request
without meaning and has a next state everywhere else. -/

namespace Sys2Proof.Machine

open Claims

/-! ### Acceptance by legality (R351) -/

/-- A request that is not legal in the mode is refused, in every state. -/
theorem exec_refused_of_not_legalIn {i : Instr} {s : State} (h : i.legalIn s.mode = false) :
    ∃ x, exec i s = .refused x := by
  obtain ⟨hclosed, hopened, -⟩ := wrongModeRequestsAreRefused i s
  rw [Instr.legalIn, Bool.or_eq_false_iff] at h
  obtain ⟨hcodec, hmode⟩ := h
  by_cases hopen : i.opcode = .openBus
  · refine ⟨_, hopened hopen ?_⟩
    cases hm : s.mode with
    | closed => simp [hopen, hm] at hmode
    | opened => rfl
  · exact ⟨_, hclosed hcodec hopen (Mode.eq_closed_of_ne_opened fun hm => by simp [hopen, hm] at hmode)⟩

/-- A request that is legal in the mode runs wherever the session holds a value exactly in Open. -/
theorem exec_next_of_legalIn {i : Instr} {s : State} (hs : s.SessionOk) (h : i.legalIn s.mode = true) :
    ∃ t, exec i s = .next t := by
  cases hcodec : i.isCodec with
  | true =>
    obtain ⟨r, hexec⟩ := exec_eq_respond_of_isCodec hcodec
    exact ⟨_, hexec s⟩
  | false =>
    by_cases hopen : i.opcode = .openBus
    · obtain ⟨cfg, rfl⟩ := Instr.eq_openBus_of_opcode hopen
      obtain ⟨-, hclosed⟩ := openAcquiresTheBusOrStaysClosed
      obtain ⟨hexec, -⟩ := hclosed s cfg (by simpa [Instr.legalIn, hcodec, hopen] using h)
      exact ⟨_, hexec⟩
    · have hm : s.mode = .opened := by simpa [Instr.legalIn, hcodec, hopen] using h
      obtain ⟨d, hd⟩ := Option.isSome_iff_exists.mp (hs.mp hm)
      obtain ⟨f, hexec⟩ := exec_eq_inOpen hcodec hopen
      exact ⟨_, (hexec s).trans (State.inOpen_of_opened hm hd)⟩

/-! ### Answers under the invariant -/

theorem answerStatusRead_next {s : State} {t : CalendarTime} {d : DriverSession} (hreq : s.req = some (.setTime t))
    (hd : s.session = some d) (h : BusHandle) (bs : List Byte) : ∃ u, answerStatusRead (.ok h bs) s = .next u := by
  cases hdec : statusDec bs with
  | ok f =>
    simp only [answerStatusRead, hdec, State.withSession_of_some hd, hreq]
    exact ⟨_, rfl⟩
  | error x =>
    simp only [answerStatusRead, hdec]
    exact ⟨_, rfl⟩

/-- A successful answer always finds the values it reads. -/
theorem State.Inv.answerStep_ok {s : State} (hinv : s.Inv) (h : BusHandle) (bs : List Byte) :
    ∃ t, s.phase.answerStep (.ok h bs) s = .next t := by
  have hphase := hinv.phase
  have hsession : s.mode = .opened → ∃ d, s.session = some d := fun hm =>
    Option.isSome_iff_exists.mp (hinv.session.mp hm)
  unfold State.PhaseOk at hphase
  generalize s.phase = p at hphase ⊢
  cases p with
  | waitOpen =>
    obtain ⟨-, ⟨cfg, hreq⟩, -⟩ := hphase
    simp only [Phase.answerStep, answerOpen, hreq]
    exact ⟨_, rfl⟩
  | waitTimeRead =>
    obtain ⟨d, hd⟩ := hsession hphase.1
    cases hdec : timeDec bs d.century0 with
    | ok x => exact ⟨_, answerTimeRead_of_ok hd hdec h⟩
    | error e => exact ⟨_, answerTimeRead_of_error hd hdec h⟩
  | stWaitStatusRead =>
    obtain ⟨hm, ⟨t, hreq⟩, -⟩ := hphase
    obtain ⟨d, hd⟩ := hsession hm
    exact answerStatusRead_next hreq hd h bs
  | stWaitDateWrite =>
    obtain ⟨-, -, t, b, img, d, -, hraw, -, hd, -⟩ := hphase
    simp only [Phase.answerStep, answerDateWrite, State.withSession_of_some hd, hraw]
    exact ⟨_, rfl⟩
  | _ => exact ⟨_, rfl⟩

/-- A busy block's step always has a next state. -/
theorem State.Inv.step_next_of_busy {s : State} (hinv : s.Inv) (hbusy : s.phase ≠ .idle) : ∃ t, step s = .next t := by
  cases hans : s.answers with
  | nil =>
    refine ⟨s, ?_⟩
    have hwait : ∀ k, s.withAnswer k = .next s := fun k => State.withAnswer_nil hans
    cases hp : s.phase with
    | idle => exact absurd hp hbusy
    | _ => simp only [step, advance, hp, hwait]
  | cons a rest =>
    rw [← given_of_answers_eq hans, step_given rfl hbusy]
    cases a with
    | ok h bs => exact (hinv.with_inputs s.requests rest).answerStep_ok h bs
    | err e =>
      obtain ⟨es, hstep, -⟩ := failedTransactionEndsTheRequest s e rest hinv hbusy hans
      rw [← given_of_answers_eq hans, step_given rfl hbusy] at hstep
      exact ⟨_, hstep⟩

/-! ### A step at a request -/

theorem step_of_requests_cons {s : State} {r : Request} {rest : List Request} (hidle : s.phase = .idle)
    (hreq : s.requests = r :: rest) : step s = runDecoded (decode r) { s with requests := rest } := by
  simp only [step, advance, hidle, accept, hreq]

/-- At a request without meaning the step is refused, in every state. -/
theorem step_refused_of_withoutMeaning {s : State} (h : AtRequestWithoutMeaning s) : ∃ x, step s = .refused x := by
  obtain ⟨hidle, r, rest, hreq, hmeaningless⟩ := h
  rw [step_of_requests_cons hidle hreq]
  obtain hop | ⟨o, hop, hfits⟩ | ⟨i, hdec, hlegal⟩ := hmeaningless
  · rw [decode_eq_unassigned_iff.mpr ⟨rfl, hop⟩]
    exact ⟨_, rfl⟩
  · rw [decode_eq_operandType_iff.mpr ⟨hop, hfits⟩]
    exact ⟨_, rfl⟩
  · rw [hdec]
    exact exec_refused_of_not_legalIn (s := { s with requests := rest }) hlegal

/-- Under the invariant a step is at a request without meaning, or has a next state. -/
theorem State.Inv.withoutMeaning_or_step_next {s : State} (hinv : s.Inv) :
    AtRequestWithoutMeaning s ∨ ∃ t, step s = .next t := by
  by_cases hidle : s.phase = .idle
  · cases hreq : s.requests with
    | nil => exact .inr ⟨s, by simp only [step, advance, hidle, accept, hreq]⟩
    | cons r rest =>
      cases hdec : decode r with
      | unassigned op => exact .inl ⟨hidle, r, rest, hreq, .inl (decode_eq_unassigned_iff.mp hdec).2⟩
      | operandType o => exact .inl ⟨hidle, r, rest, hreq, .inr (.inl ⟨o, decode_eq_operandType_iff.mp hdec⟩)⟩
      | instr i =>
        cases hlegal : i.legalIn s.mode with
        | false => exact .inl ⟨hidle, r, rest, hreq, .inr (.inr ⟨i, hdec, hlegal⟩)⟩
        | true =>
          rw [step_of_idle hidle hreq hdec]
          exact .inr (exec_next_of_legalIn (s := { s with requests := rest }) hinv.session hlegal)
  · exact .inr (hinv.step_next_of_busy hidle)

/-- Settles O4: at a request without meaning the step is refused, and everywhere else it has a next state. -/
theorem noFaultUnderInvariant : Obligations.NoFaultUnderInvariant := by
  intro s f hinv hfault
  obtain hmeaningless | ⟨t, hnext⟩ := hinv.withoutMeaning_or_step_next
  · obtain ⟨x, hrefused⟩ := step_refused_of_withoutMeaning hmeaningless
    cases hfault.symm.trans hrefused
  · cases hfault.symm.trans hnext

/-- Settles O6: the same dichotomy, read as an equivalence. -/
theorem refusedExactlyWhenRequestHasNoMeaning : Obligations.RefusedExactlyWhenRequestHasNoMeaning := by
  intro s hinv
  refine ⟨fun ⟨x, hrefused⟩ => ?_, step_refused_of_withoutMeaning⟩
  obtain hmeaningless | ⟨t, hnext⟩ := hinv.withoutMeaning_or_step_next
  · exact hmeaningless
  · cases hrefused.symm.trans hnext

/-! ### Whole runs -/

/-- Under the invariant a run is refused exactly when it reaches a request without meaning, by induction on its length:
the run's first step is refused there, or leads to a state that meets the invariant again. -/
theorem run_refused_iff (k : Nat) {s : State} (hinv : s.Inv) :
    (∃ x, Host.Core.run core k s = .refused x) ↔
      ∃ j t, j < k ∧ Host.Core.run core j s = .next t ∧ AtRequestWithoutMeaning t := by
  induction k generalizing s with
  | zero => exact iff_of_false (fun ⟨_, hx⟩ => by cases hx) fun ⟨j, _, hj, _⟩ => j.not_lt_zero hj
  | succ k ih =>
    obtain hmeaningless | ⟨u, hnext⟩ := hinv.withoutMeaning_or_step_next
    · obtain ⟨x, hrefused⟩ := step_refused_of_withoutMeaning hmeaningless
      exact iff_of_true ⟨x, run_succ_of_refused hrefused k⟩ ⟨0, s, k.succ_pos, rfl, hmeaningless⟩
    · rw [run_succ_of_step hnext, ih (stepKeepsInvariant s u hinv hnext)]
      constructor
      · rintro ⟨j, t, hj, hrun, ht⟩
        exact ⟨j + 1, t, Nat.succ_lt_succ hj, (run_succ_of_step hnext j).trans hrun, ht⟩
      · rintro ⟨j, t, hj, hrun, ht⟩
        cases j with
        | zero =>
          cases hrun
          obtain ⟨x, hrefused⟩ := step_refused_of_withoutMeaning ht
          cases hnext.symm.trans hrefused
        | succ j => exact ⟨j, t, Nat.lt_of_succ_lt_succ hj, (run_succ_of_step hnext j).symm.trans hrun, ht⟩

/-- Settles O7: the refusal of the first step is the refusal of the run, and `run_refused_iff` counts the steps before. -/
theorem runIsRefusedExactlyAtARequestWithoutMeaning : Obligations.RunIsRefusedExactlyAtARequestWithoutMeaning := by
  refine ⟨fun s hmeaningless => ?_, fun k s hinv => run_refused_iff k hinv⟩
  obtain ⟨x, hrefused⟩ := step_refused_of_withoutMeaning hmeaningless
  refine ⟨x, fun k hk => ?_⟩
  obtain ⟨j, rfl⟩ := Nat.exists_eq_add_of_le' hk
  exact run_succ_of_refused hrefused j

end Sys2Proof.Machine
end

section
/-! PROOFS. The transport's error payloads (spec/20_memory.md R88): renaming them commutes with every operation, since no
codec makes one and no operation looks into one. -/

namespace Sys2Proof.Machine

open Claims

/-! ### The codecs make no transport error -/

/-- A result that is a value or one of the block's own errors. -/
def OwnResult {α : Type} (x : Except Error α) : Prop := ∀ e, x ≠ .error (.transport e)

theorem ownResult_failOr {α β : Type} {mk : β → Error} (hmk : ∀ i e, mk i ≠ .transport e) (bad : Option β) (x : α) :
    OwnResult (failOr mk bad x) := by
  intro e
  cases bad with
  | none => nofun
  | some i => simpa using hmk i e

theorem ownResult_bcdEnc (v : Int) : OwnResult (bcdEnc v) := by
  unfold bcdEnc
  split <;> nofun

theorem ownResult_bcdDecReported (b : Byte) : OwnResult (bcdDecReported b) := by
  unfold bcdDecReported
  split <;> nofun

theorem ownResult_timeEnc (t : CalendarTime) (c0 : Int) : OwnResult (timeEnc t c0) := by
  rw [timeEnc_eq_failOr]
  exact ownResult_failOr nofun _ _

theorem ownResult_timeDec (bs : List Byte) (c0 : Int) : OwnResult (timeDec bs c0) := by
  by_cases hlen : bs.length = 7
  · obtain ⟨b0, b1, b2, b3, b4, b5, b6, rfl⟩ := exists_of_length_eq_seven hlen
    rw [timeDec_eq_failOr]
    exact ownResult_failOr nofun _ _
  · rw [timeDec_of_length_ne c0 hlen]
    nofun

theorem ownResult_statusDec (bs : List Byte) : OwnResult (statusDec bs) := by
  unfold statusDec
  split <;> nofun

theorem ownResult_controlDec (bs : List Byte) : OwnResult (controlDec bs) := by
  unfold controlDec
  split <;> nofun

theorem ownResult_tempDec (bs : List Byte) : OwnResult (tempDec bs) := by
  unfold tempDec
  split <;> nofun

theorem ownResult_alarmEnc (a : AlarmSpec) : OwnResult (alarmEnc a) := by
  rw [alarmEnc_eq_failOr]
  exact ownResult_failOr nofun _ _

theorem ownResult_alarm1Dec (bs : List Byte) : OwnResult (alarm1Dec bs) := by
  by_cases hlen : bs.length = 4
  · obtain ⟨b0, b1, b2, b3, rfl⟩ := List.length_eq_four.mp hlen
    rw [alarm1Dec_eq_failOr]
    exact ownResult_failOr nofun _ _
  · rw [alarm1Dec_of_length_ne hlen]
    nofun

theorem ownResult_alarm2Dec (bs : List Byte) : OwnResult (alarm2Dec bs) := by
  by_cases hlen : bs.length = 3
  · obtain ⟨b0, b1, b2, rfl⟩ := List.length_eq_three.mp hlen
    rw [alarm2Dec_eq_failOr]
    exact ownResult_failOr nofun _ _
  · rw [alarm2Dec_of_length_ne hlen]
    nofun

theorem ownResult_alarmDec (bs : List Byte) : OwnResult (alarmDec bs) := by
  unfold alarmDec
  split
  · exact ownResult_alarm1Dec bs
  · split
    · exact ownResult_alarm2Dec bs
    · nofun

/-! ### The operations on a renamed state -/

section Renaming

variable (f : TransportErr → TransportErr)

theorem errorMap_of_ownResult {α : Type} {e : Error} (h : OwnResult (.error e : Except Error α)) : errorMap f e = e := by
  cases e with
  | transport x => exact absurd rfl (h x)
  | _ => rfl

theorem eventMap_responseOf {α : Type} (wrap : α → Value) {x : Except Error α} (h : OwnResult x) :
    eventMap f (.respond (responseOf wrap x)) = .respond (responseOf wrap x) := by
  cases x with
  | ok v => rfl
  | error e => rw [responseOf_error, eventMap, errorMap_of_ownResult f h]

theorem stateMap_emit (s : State) (e : Event) : stateMap f (s.emit e) = (stateMap f s).emit (eventMap f e) := by
  simp only [stateMap, State.emit, List.map_append, List.map_cons, List.map_nil]

theorem stateMap_issue (s : State) (p : Phase) (x : Txn) : stateMap f (s.issue p x) = (stateMap f s).issue p x :=
  congrArg (fun t : State => { t with phase := p }) (stateMap_emit f s (.issue x))

theorem stateMap_start (s : State) (i : Instr) (p : Phase) (x : Txn) :
    stateMap f (s.start i p x) = (stateMap f s).start i p x := stateMap_issue f { s with req := some i } p x

theorem stateMap_complete (s : State) {r r' : Response} (hr : eventMap f (.respond r) = .respond r') :
    stateMap f (s.complete r) = (stateMap f s).complete r' := by
  rw [State.complete, State.respond, stateMap_emit, hr]
  rfl

theorem stateMap_fail (s : State) (op : Opcode) (e : Error) :
    stateMap f (s.fail op e) = (stateMap f s).fail op (errorMap f e) := by
  rw [State.fail, stateMap_complete f _ rfl, stateMap_emit]
  rfl

theorem stateMap_failUnset (s : State) (e : Error) :
    stateMap f (s.failUnset e) = (stateMap f s).failUnset (errorMap f e) := by
  rw [State.failUnset, stateMap_complete f _ rfl]
  cases hlog : Config.logGetTimeFailure <;> simp [stateMap, State.failUnset, hlog, eventMap]

theorem stateMap_completeWith {α : Type} (s : State) (op : Opcode) (wrap : α → Value) {x : Except Error α}
    (h : OwnResult x) : stateMap f (s.completeWith op wrap x) = (stateMap f s).completeWith op wrap x := by
  cases x with
  | ok v => exact stateMap_complete f s rfl
  | error e => rw [State.completeWith_error, stateMap_fail, errorMap_of_ownResult f h, State.completeWith_error]

theorem outcomeMap_complete_ok (s : State) (v : Value) :
    outcomeMap f (.next (s.complete (.ok v))) = .next ((stateMap f s).complete (.ok v)) :=
  congrArg Host.Outcome.next (stateMap_complete f s rfl)

theorem outcomeMap_fail_transport (s : State) (op : Opcode) (e : TransportErr) :
    outcomeMap f (.next (s.fail op (.transport e))) = .next ((stateMap f s).fail op (.transport (f e))) :=
  congrArg Host.Outcome.next (stateMap_fail f s op (.transport e))

theorem withSession_stateMap {s : State} {k k' : DriverSession → Outcome} (hk : ∀ d, k' d = outcomeMap f (k d)) :
    (stateMap f s).withSession k' = outcomeMap f (s.withSession k) := by
  have hsession : (stateMap f s).session = s.session := rfl
  cases hd : s.session with
  | none => simp only [State.withSession, hsession, hd, outcomeMap]
  | some d => rw [State.withSession_of_some (hsession.trans hd), State.withSession_of_some hd, hk]

theorem inOpen_stateMap {s : State} {op : Opcode} {k k' : DriverSession → Outcome}
    (hk : ∀ d, k' d = outcomeMap f (k d)) : (stateMap f s).inOpen op k' = outcomeMap f (s.inOpen op k) := by
  have hmode : (stateMap f s).mode = s.mode := rfl
  cases hm : s.mode with
  | closed => simp only [State.inOpen, hmode, hm, outcomeMap]
  | opened => simpa only [State.inOpen, hmode, hm] using withSession_stateMap f hk

theorem withAnswer_stateMap {s : State} {k : Draw → State → Outcome}
    (hk : ∀ a u, k (drawMap f a) (stateMap f u) = outcomeMap f (k a u)) :
    (stateMap f s).withAnswer k = outcomeMap f (s.withAnswer k) := by
  have hanswers : (stateMap f s).answers = s.answers.map (drawMap f) := rfl
  cases hans : s.answers with
  | nil => rw [State.withAnswer_nil hans, State.withAnswer_nil (by rw [hanswers, hans, List.map_nil]), outcomeMap]
  | cons a rest =>
    rw [State.withAnswer_cons hans, State.withAnswer_cons (by rw [hanswers, hans, List.map_cons]), ← hk]
    rfl

/-! ### Acceptance -/

/-- What a codec request responds holds no transport payload. -/
theorem exec_eq_ownResponse_of_isCodec {i : Instr} (h : i.isCodec = true) :
    ∃ r, eventMap f (.respond r) = .respond r ∧ ∀ s, exec i s = .next (s.respond r) := by
  cases i with
  | bcdEnc v => exact ⟨_, eventMap_responseOf f _ (ownResult_bcdEnc v), fun _ => rfl⟩
  | bcdDec b => exact ⟨_, eventMap_responseOf f _ (ownResult_bcdDecReported b), fun _ => rfl⟩
  | timeEnc t c0 => exact ⟨_, eventMap_responseOf f _ (ownResult_timeEnc t c0), fun _ => rfl⟩
  | timeDec bs c0 => exact ⟨_, eventMap_responseOf f _ (ownResult_timeDec bs c0), fun _ => rfl⟩
  | statusEnc x => exact ⟨_, rfl, fun _ => rfl⟩
  | statusDec bs => exact ⟨_, eventMap_responseOf f _ (ownResult_statusDec bs), fun _ => rfl⟩
  | controlEnc x => exact ⟨_, rfl, fun _ => rfl⟩
  | controlDec bs => exact ⟨_, eventMap_responseOf f _ (ownResult_controlDec bs), fun _ => rfl⟩
  | alarmEnc a => exact ⟨_, eventMap_responseOf f _ (ownResult_alarmEnc a), fun _ => rfl⟩
  | alarmDec bs => exact ⟨_, eventMap_responseOf f _ (ownResult_alarmDec bs), fun _ => rfl⟩
  | tempDec bs => exact ⟨_, eventMap_responseOf f _ (ownResult_tempDec bs), fun _ => rfl⟩
  | _ => cases h

/-- A session request behind the mode check that is started by its acceptance. -/
theorem inOpen_start_stateMap (s : State) (op : Opcode) (i : Instr) (p : Phase) (x : DriverSession → Txn) :
    (stateMap f s).inOpen op (fun d => .next ((stateMap f s).start i p (x d))) =
      outcomeMap f (s.inOpen op fun d => .next (s.start i p (x d))) :=
  inOpen_stateMap f fun d => congrArg _ (stateMap_start f s i p (x d)).symm

theorem execOpenBus_stateMap (cfg : OpenConfig) (s : State) :
    execOpenBus cfg (stateMap f s) = outcomeMap f (execOpenBus cfg s) := by
  have hmode : (stateMap f s).mode = s.mode := rfl
  cases hm : s.mode with
  | opened => simp only [execOpenBus, hmode, hm, outcomeMap]
  | closed => simp only [execOpenBus, hmode, hm, outcomeMap, stateMap_start]

theorem execTerminate_stateMap (s : State) : execTerminate (stateMap f s) = outcomeMap f (execTerminate s) :=
  inOpen_stateMap f fun d => by
    have hemit := stateMap_emit f s (.issue (.busRelease d.busHandle))
    rw [outcomeMap_complete_ok]
    exact congrArg (fun t : State => Host.Outcome.next (t.closeSession.complete (.ok .unit))) hemit.symm

theorem execSetAlarm_stateMap (a : AlarmSpec) (s : State) :
    execSetAlarm a (stateMap f s) = outcomeMap f (execSetAlarm a s) := by
  have hown := ownResult_alarmEnc a
  refine inOpen_stateMap f fun d => ?_
  cases henc : alarmEnc a with
  | error x => rw [outcomeMap, stateMap_fail, errorMap_of_ownResult f (henc ▸ hown)]
  | ok img => rw [outcomeMap, stateMap_start]

theorem exec_stateMap (i : Instr) (s : State) : exec i (stateMap f s) = outcomeMap f (exec i s) := by
  cases hcodec : i.isCodec with
  | true =>
    obtain ⟨r, hr, hexec⟩ := exec_eq_ownResponse_of_isCodec f hcodec
    rw [hexec, hexec, outcomeMap, State.respond, State.respond, stateMap_emit, hr]
  | false =>
    cases i with
    | openBus cfg => exact execOpenBus_stateMap f cfg s
    | terminate => exact execTerminate_stateMap f s
    | setAlarm a => exact execSetAlarm_stateMap f a s
    | getTime => exact inOpen_start_stateMap ..
    | setTime t => exact inOpen_start_stateMap ..
    | getStatus => exact inOpen_start_stateMap ..
    | setStatus x => exact inOpen_start_stateMap ..
    | getControl => exact inOpen_start_stateMap ..
    | setControl x => exact inOpen_start_stateMap ..
    | getAlarm1 => exact inOpen_start_stateMap ..
    | getAlarm2 => exact inOpen_start_stateMap ..
    | getTemperature => exact inOpen_start_stateMap ..
    | _ => cases hcodec

/-! ### Answers -/

theorem answerOpen_stateMap (a : Draw) (s : State) :
    answerOpen (drawMap f a) (stateMap f s) = outcomeMap f (answerOpen a s) := by
  have hreq : (stateMap f s).req = s.req := rfl
  unfold answerOpen
  rw [hreq]
  split
  next cfg _ =>
    cases a with
    | ok h bs => exact (outcomeMap_complete_ok f (s.openSession h cfg) .unit).symm
    | err e => exact (outcomeMap_fail_transport ..).symm
  next => rfl

theorem answerTimeRead_stateMap (a : Draw) (s : State) :
    answerTimeRead (drawMap f a) (stateMap f s) = outcomeMap f (answerTimeRead a s) := by
  cases a with
  | err e => exact congrArg Host.Outcome.next (stateMap_failUnset f s (.transport e)).symm
  | ok h bs =>
    refine withSession_stateMap f fun d => ?_
    have hown := ownResult_timeDec bs d.century0
    cases hdec : timeDec bs d.century0 with
    | ok t => exact (outcomeMap_complete_ok ..).symm
    | error x => rw [outcomeMap, stateMap_failUnset, errorMap_of_ownResult f (hdec ▸ hown)]

theorem setTimeEncode_stateMap (t : CalendarTime) (d : DriverSession) (s : State) :
    stateMap f (setTimeEncode t d s) = setTimeEncode t d (stateMap f s) := by
  have hown := ownResult_timeEnc t d.century0
  unfold setTimeEncode
  cases henc : timeEnc t d.century0 with
  | error x => rw [stateMap_fail, errorMap_of_ownResult f (henc ▸ hown)]
  | ok img => exact stateMap_issue ..

theorem answerStatusRead_stateMap (a : Draw) (s : State) :
    answerStatusRead (drawMap f a) (stateMap f s) = outcomeMap f (answerStatusRead a s) := by
  cases a with
  | err e => exact (outcomeMap_fail_transport ..).symm
  | ok h bs =>
    have hown := ownResult_statusDec bs
    have hreq : (stateMap f s).req = s.req := rfl
    simp only [answerStatusRead, drawMap]
    cases hdec : statusDec bs with
    | error x => rw [outcomeMap, stateMap_fail, errorMap_of_ownResult f (hdec ▸ hown)]
    | ok flags =>
      refine withSession_stateMap f fun d => ?_
      rw [hreq]
      split
      · rw [outcomeMap, setTimeEncode_stateMap]
        rfl
      · rfl

theorem answerDateWrite_stateMap (a : Draw) (s : State) :
    answerDateWrite (drawMap f a) (stateMap f s) = outcomeMap f (answerDateWrite a s) := by
  cases a with
  | err e => exact (outcomeMap_fail_transport ..).symm
  | ok h bs =>
    have hraw : (stateMap f s).stRaw = s.stRaw := rfl
    refine withSession_stateMap f fun d => ?_
    rw [hraw]
    split
    · rfl
    · rw [outcomeMap, stateMap_issue]
      rfl

theorem answerStatusWrite_stateMap (a : Draw) (s : State) :
    answerStatusWrite (drawMap f a) (stateMap f s) = outcomeMap f (answerStatusWrite a s) := by
  cases a with
  | err e => exact (outcomeMap_fail_transport ..).symm
  | ok h bs => exact (outcomeMap_complete_ok ..).symm

theorem completeRead_stateMap (r : AuxRead) (bs : List Byte) (s : State) :
    stateMap f (completeRead r bs s) = completeRead r bs (stateMap f s) := by
  cases r with
  | status => exact stateMap_completeWith f s _ _ (ownResult_statusDec bs)
  | control => exact stateMap_completeWith f s _ _ (ownResult_controlDec bs)
  | alarm1 => exact stateMap_completeWith f s _ _ (ownResult_alarm1Dec bs)
  | alarm2 => exact stateMap_completeWith f s _ _ (ownResult_alarm2Dec bs)
  | temperature => exact stateMap_completeWith f s _ _ (ownResult_tempDec bs)

theorem answerAuxRead_stateMap (r : AuxRead) (a : Draw) (s : State) :
    answerAuxRead r (drawMap f a) (stateMap f s) = outcomeMap f (answerAuxRead r a s) := by
  cases a with
  | err e => exact (outcomeMap_fail_transport ..).symm
  | ok h bs => exact congrArg _ (completeRead_stateMap ..).symm

theorem answerAuxWrite_stateMap (r : AuxWrite) (a : Draw) (s : State) :
    answerAuxWrite r (drawMap f a) (stateMap f s) = outcomeMap f (answerAuxWrite r a s) := by
  cases a with
  | err e => exact (outcomeMap_fail_transport ..).symm
  | ok h bs => exact (outcomeMap_complete_ok ..).symm

/-! ### A step -/

theorem accept_stateMap (s : State) : accept (stateMap f s) = outcomeMap f (accept s) := by
  have hrequests : (stateMap f s).requests = s.requests := rfl
  unfold accept
  rw [hrequests]
  split
  · rfl
  · rename_i r rest _
    cases hdec : decode r with
    | instr i => exact exec_stateMap f i { s with requests := rest }
    | unassigned op => rfl
    | operandType o => rfl

end Renaming

/-- Settles O23: in each phase the step accepts or takes an answer, and both commute with the renaming. -/
theorem transportErrorsAreNeverInspected : Obligations.TransportErrorsAreNeverInspected := by
  intro f s
  have hphase : (stateMap f s).phase = s.phase := rfl
  simp only [step, advance, hphase]
  cases s.phase with
  | idle => exact accept_stateMap f s
  | waitOpen => exact withAnswer_stateMap f (answerOpen_stateMap f)
  | waitTimeRead => exact withAnswer_stateMap f (answerTimeRead_stateMap f)
  | stWaitStatusRead => exact withAnswer_stateMap f (answerStatusRead_stateMap f)
  | stWaitDateWrite => exact withAnswer_stateMap f (answerDateWrite_stateMap f)
  | stWaitStatusWrite => exact withAnswer_stateMap f (answerStatusWrite_stateMap f)
  | auxWaitRead r => exact withAnswer_stateMap f (answerAuxRead_stateMap f r)
  | auxWaitWrite r => exact withAnswer_stateMap f (answerAuxWrite_stateMap f r)

end Sys2Proof.Machine
end

section
/-! PROOFS. GET_TIME on a corrupt image (spec/41_time_codec.md R166, spec/45_orchestrator.md R285, R287). -/

namespace Sys2Proof.Machine

open Claims

/-- Where no byte is bad, every byte passes one of the rows. -/
theorem exists_accepts_of_firstBadByte_eq_none {fs : List FieldSpec} {bs : List Byte} {i : Nat} {b : Byte}
    (hgood : firstBadByte fs bs i = none) (hlen : bs.length = fs.length) (hb : b ∈ bs) :
    ∃ f ∈ fs, f.accepts b = true := by
  induction fs generalizing bs i with
  | nil => simp [List.length_eq_zero_iff.mp hlen] at hb
  | cons f fs ih =>
    cases bs with
    | nil => cases hb
    | cons c cs =>
      rw [firstBadByte] at hgood
      split at hgood
      · rename_i haccepts
        obtain rfl | hb := List.mem_cons.mp hb
        · exact ⟨f, List.mem_cons_self, haccepts⟩
        · obtain ⟨g, hg, hgb⟩ := ih hgood (Nat.succ.inj hlen) hb
          exact ⟨g, List.mem_cons_of_mem f hg, hgb⟩
      · cases hgood

/-- No row of R166 accepts 0x0A: its low nibble is no digit, and in the day-of-week row bit 3 is reserved. -/
theorem timeFields_not_accepts_0x0A : ∀ f ∈ timeFields, f.accepts 0x0A = false := by decide

theorem timeDec_eq_error_of_mem_0x0A {bs : List Byte} (h : 0x0A ∈ bs) (c0 : Int) : ∃ e, timeDec bs c0 = .error e := by
  by_cases hlen : bs.length = 7
  · obtain ⟨b0, b1, b2, b3, b4, b5, b6, rfl⟩ := exists_of_length_eq_seven hlen
    rw [timeDec_eq_failOr]
    cases hbad : firstBadByte timeFields [b0, b1, b2, b3, b4, b5, b6] 0 with
    | some i => exact ⟨_, rfl⟩
    | none =>
      obtain ⟨f, hf, haccepts⟩ := exists_accepts_of_firstBadByte_eq_none hbad rfl h
      cases haccepts.symm.trans (timeFields_not_accepts_0x0A f hf)
  · exact ⟨_, timeDec_of_length_ne c0 hlen⟩

/-- The date of an all-zero image is 0. -/
theorem timeDec_zeros (c0 : Int) : timeDec (List.replicate 7 0) c0 = .error (.format .time 4) := rfl

/-- Settles O48: neither image decodes, and GET_TIME completes with `Unset`. -/
theorem getTimeOnCorruptImageIsUnset : Obligations.GetTimeOnCorruptImageIsUnset := by
  intro s d h bs rest hphase hd hans hcorrupt
  obtain ⟨e, hdec⟩ : ∃ e, timeDec bs d.century0 = .error e := by
    obtain rfl | hmem := hcorrupt
    · exact ⟨_, timeDec_zeros _⟩
    · exact timeDec_eq_error_of_mem_0x0A hmem _
  have hstep : step s = .next (done s rest (maybeLog e ++ [.respond .unset])) := by
    rw [← given_of_answers_eq hans, step_given hphase nofun]
    exact answerTimeRead_of_error (s := given s rest) hd hdec h
  exact ⟨_, hstep, by simp, rfl, rfl⟩

end Sys2Proof.Machine
end
